-- ==== Sys2Proof/Word.lean ====
section
/-! DEFINITION. The plain words of the block: bytes, pin levels, pin roles, strategies, the binary64 carrier
(R11, R12, R15), and the words the command port takes (R80). -/

namespace Sys2Proof

/-- `Byte` of R15: the integers 0..255. -/
abbrev Byte := BitVec 8

/-- `Float` of R15 under decision D4: the 64 bits of a binary64 datum (R92). -/
abbrev Binary64 := BitVec 64

/-- `Level` of R15. -/
inductive Level where
  | low
  | high
  deriving DecidableEq, Repr, Inhabited

/-- R12 (decision D27): the bit value 1 is `HIGH`, 0 is `LOW`. -/
def Level.ofBit : Bool → Level
  | true => .high
  | false => .low

/-- R12 (decision D27), read the other way. -/
def Level.toBit : Level → Bool
  | .high => true
  | .low => false

/-- `Role` of R15: the source's chip-select, clock, data-out, data-in. -/
inductive Role where
  | cs
  | clk
  | sdo
  | sdi
  deriving DecidableEq, Repr

/-- The roles `WR` may drive (R112). -/
inductive OutPin where
  | cs
  | clk
  | sdo
  deriving DecidableEq, Repr

/-- An output pin as a role. -/
def OutPin.role : OutPin → Role
  | .cs => .cs
  | .clk => .clk
  | .sdo => .sdo

/-- `Strategy` of R15, in the order of the strategy index of R90. -/
inductive Strategy where
  | exact
  | poly3
  | poly4
  | poly5
  deriving DecidableEq, Repr

/-- A word at the command port, one constructor per format of R80.
`cmd` is the 24-bit command word `op:a:b`.
`frameW` is a write frame's 16 bits, first bit on the wire most significant.
`frameR` is a read frame's 8 outgoing bits with the `count` that is fixed before the frame starts and is not on
the wire (R83).
DESIGN CHOICE (log 3): handing the port a bare frame is the model's way to run the table's frame rows. -/
inductive PortWord where
  | cmd (w : BitVec 24)
  | frameW (w : BitVec 16)
  | frameR (w : BitVec 8) (count : Byte)
  deriving DecidableEq, Repr

end Sys2Proof
end

