-- ==== Sys2Proof/Machine/Flags.lean ====
section
/-! DEFINITION. The fault-status byte: its six flags, its causes and the good-read test (R30, R36, R88, R148, R191).
They are derived from the byte and stored nowhere. -/

namespace Sys2Proof.Machine

/-- The six named flags of R36. -/
structure FaultFlags where
  high : Bool
  low : Bool
  refinHi : Bool
  refinLo : Bool
  rtdinLo : Bool
  ovuv : Bool
  deriving DecidableEq, Repr

/-- R148: `F_HIGH = s[7]`, `F_LOW = s[6]`, `F_REFIN_HI = s[5]`, `F_REFIN_LO = s[4]`, `F_RTDIN_LO = s[3]`,
`F_OVUV = s[2]`; bits 1 and 0 name nothing. -/
def faultFlags (s : Byte) : FaultFlags where
  high := s.getLsbD 7
  low := s.getLsbD 6
  refinHi := s.getLsbD 5
  refinLo := s.getLsbD 4
  rtdinLo := s.getLsbD 3
  ovuv := s.getLsbD 2

/-- The fault causes of R191. -/
inductive FaultCause where
  | highThresholdOpenCable
  | lowThresholdShortCable
  | refinHigh
  | refinLow
  | rtdinLow
  | overUnderVoltage
  deriving DecidableEq, Repr

/-- R191: the code (mask) of a cause. -/
def causeMask : FaultCause → Byte
  | .highThresholdOpenCable => 0x80
  | .lowThresholdShortCable => 0x40
  | .refinHigh => 0x20
  | .refinLow => 0x10
  | .rtdinLow => 0x08
  | .overUnderVoltage => 0x04

/-- R191, R194: every cause a status byte reports; they have no priority among themselves. -/
def causes (s : Byte) : List FaultCause :=
  [.highThresholdOpenCable, .lowThresholdShortCable, .refinHigh, .refinLow, .rtdinLow, .overUnderVoltage].filter
    (fun c => s &&& causeMask c != 0)

/-- R30, R149: `good = (STATUS == 0x00)`, the test on the whole byte. -/
def goodStatus (s : Byte) : Bool := s == 0

end Sys2Proof.Machine
end

