-- ==== Sys2Proof/Config.lean ====
section
/-! DEFINITION. What is fixed for one instance of the block: the constants of R7 and R8, and the open parameters and
free values of R9, R10 and R41, which are opaque constants with no body. -/

namespace Sys2Proof

/-- A decimal constant of the spec as an exact fraction, before any rounding: `±num/den`. -/
structure Lit where
  negative : Bool
  num : Nat
  den : Nat
  deriving DecidableEq, Repr

/-- The operations the numerics record has, for naming a free NaN (log 11). -/
inductive FloatOp where
  | add
  | mul
  | div
  | sqrt
  deriving DecidableEq, Repr

/-! ### Fixed constants (R7, R8) -/

/-- `RREF` = 430.0 ohm (R7). -/
def Config.rref : Lit := ⟨false, 430, 1⟩

/-- `ADC_FS` = 32768.0 (R7). -/
def Config.adcFs : Lit := ⟨false, 32768, 1⟩

/-- `CVD_A` = 3.90830e-3 (R7). -/
def Config.cvdA : Lit := ⟨false, 390830, 100000000⟩

/-- `CVD_B` = -5.77500e-7 (R7). -/
def Config.cvdB : Lit := ⟨true, 577500, 1000000000000⟩

/-- `R0` = 100.0 ohm (R7). -/
def Config.r0 : Lit := ⟨false, 100, 1⟩

/-- `WRITE_MARKER` = 0x80 (R7). -/
def Config.writeMarker : Byte := 0x80

/-- `CONFIG_TRIGGER` = 0xB2 (R8, decision D5). -/
def Config.configTrigger : Byte := 0xB2

/-- `NREGS` = 8 (R7). -/
def Config.nregs : Nat := 8

/-- `BYTE_BITS` = 8 (R7). -/
def Config.byteBits : Nat := 8

/-- `NPINS` = 4 (R7). -/
def Config.npins : Nat := 4

/-- The default of `SETTLE_DELAY`, 5 ms (R9), in microseconds. -/
def Config.settleDelayDefaultUs : Nat := 5000

/-! ### Open parameters (R9, R10) -/

/-- `SETTLE_DELAY` in microseconds: tunable (R9, decision D18). No rule's result depends on it (R233). -/
opaque Config.settleDelayUs : Nat

/-- `PINMAP`: the physical pin of a role (R10, decision D17). No rule reads it. -/
opaque Config.pinMap : Role → Nat

/-- `POLY3_C[0..3]`: `c[k]` multiplies `R^k` (R10, R170, decision D14). -/
opaque Config.poly3C : Fin 4 → Binary64

/-- `POLY4_C[0..4]` (R10, R170, decision D14). -/
opaque Config.poly4C : Fin 5 → Binary64

/-- `POLY5_C[0..5]` (R10, R170, decision D14). -/
opaque Config.poly5C : Fin 6 → Binary64

/-! ### Free values -/

/-- The level `RD(SDI)` returns at the n-th sample of the run, where the state holds no level given by the
environment for it (R113, R203, decision D21). -/
opaque Config.oracle : Nat → Level

/-- Which of the agents that can move moves, at the n-th choice of the run (R61, R62, R209, decision D11). -/
opaque Config.schedule : Nat → Nat

/-- Sign and payload of the quiet NaN an operation gives: IEEE 754 does not fix them (log 11). -/
opaque Config.nanTail : FloatOp → Binary64 → Binary64 → BitVec 52

end Sys2Proof
end

