-- ==== Sys2Proof/Machine/Operands.lean ====
section
/-! DEFINITION. The operand forms and byte layouts the block interprets: bit order, the address byte, the slave's
register map, the RTD field, and the fields of the trigger byte (R52, R53, R58, R81 to R89, R129, R130). -/

namespace Sys2Proof.Machine

/-- R52, R84: the bits of a byte in time order, most significant first. -/
def bitsMsbFirst (b : Byte) : List Bool :=
  [b.getLsbD 7, b.getLsbD 6, b.getLsbD 5, b.getLsbD 4, b.getLsbD 3, b.getLsbD 2, b.getLsbD 1, b.getLsbD 0]

/-- R122, R130 (c): `((ACC << 1) | bit) & 0xFF`. -/
def shiftIn (acc : Byte) (l : Level) : Byte := (acc <<< 1) ||| (if l.toBit then 1 else 0)

/-- R81, R130 (a): the address byte of a write, `0x80 | addr`. -/
def writeAddress (addr : Byte) : Byte := Config.writeMarker ||| addr

/-- R81, R51: the address byte of a read is `startAddr` unchanged, bit 7 unmasked. -/
def readAddress (startAddr : Byte) : Byte := startAddr

/-- R82: the address byte of a write frame, the marker bit before the index. -/
def frameAddress (idx : BitVec 7) : Byte := Config.writeMarker ||| idx.setWidth 8

/-- The direction marker of an address byte: bit 7, 1 for a write (R81). -/
def isWriteAddress (a : Byte) : Bool := a.getLsbD 7

/-- The register index of an address byte: bits 6 to 0 (R50, R81). -/
def addressIndex (a : Byte) : BitVec 7 := a.extractLsb' 0 7

/-! ### The slave's registers by index (R31, R58) -/

/-- The eight registers the source describes (R31). -/
inductive SlaveReg where
  | config
  | rtdMsb
  | rtdLsb
  | hftMsb
  | hftLsb
  | lftMsb
  | lftLsb
  | faultStatus
  deriving DecidableEq, Repr

/-- R31: a register's index, which is also its place in `BANK` (R86). -/
def registerIndex : SlaveReg → Byte
  | .config => 0
  | .rtdMsb => 1
  | .rtdLsb => 2
  | .hftMsb => 3
  | .hftLsb => 4
  | .lftMsb => 5
  | .lftLsb => 6
  | .faultStatus => 7

/-! ### The RTD field (R34, R53, R87) -/

/-- R87: `RTD16 = (BANK[1] << 8) | BANK[2]`, big-endian. -/
def rtd16 (msb lsb : Byte) : BitVec 16 := msb.setWidth 16 <<< 8 ||| lsb.setWidth 16

/-- R87, R146: `CODE = RTD16 >> 1`; bit 0 is dropped. -/
def adcCode (msb lsb : Byte) : BitVec 16 := rtd16 msb lsb >>> 1

/-- R34, R87: the bit the decode drops. Nothing reads it. -/
def rtdFaultBit (msb lsb : Byte) : Bool := (rtd16 msb lsb).getLsbD 0

/-! ### The fields of the configuration byte (R33) -/

/-- The fields of `CONFIG`. PRESUMED (log 10): R33 takes the bit positions from general knowledge of the chip. The
block sends the constant whole and no rule reads a field. -/
structure ConfigFields where
  vbias : Bool
  convMode : Bool
  oneShot : Bool
  wire3 : Bool
  faultCycle : BitVec 2
  faultClear : Bool
  filt50 : Bool
  deriving DecidableEq, Repr

/-- R33: a configuration byte field by field. -/
def configFields (b : Byte) : ConfigFields where
  vbias := b.getLsbD 7
  convMode := b.getLsbD 6
  oneShot := b.getLsbD 5
  wire3 := b.getLsbD 4
  faultCycle := b.extractLsb' 2 2
  faultClear := b.getLsbD 1
  filt50 := b.getLsbD 0

end Sys2Proof.Machine
end

