-- ==== Sys2Proof/Syntax.lean ====
section
/-! DEFINITION. The instructions: one constructor per row of spec/opcode_table.json (R90, R98). -/

namespace Sys2Proof

/-- The eleven operations of R90 and the two wire frames of R82 and R83. -/
inductive Instr where
  /-- `INIT` (R180). -/
  | init
  /-- `SENDBYTE byte` (R121). -/
  | sendbyte (byte : Byte)
  /-- `RECVBYTE` (R122). -/
  | recvbyte
  /-- `WRITEREG addr, value` (R124). -/
  | writereg (addr value : Byte)
  /-- `READREGS startAddr, count` (R126). -/
  | readregs (startAddr count : Byte)
  /-- `ACQUIRE` (R140). -/
  | acquire
  /-- `TEMP_EXACT` (R161). -/
  | tempExact
  /-- `TEMP_POLY3` (R166). -/
  | tempPoly3
  /-- `TEMP_POLY4` (R167). -/
  | tempPoly4
  /-- `TEMP_POLY5` (R168). -/
  | tempPoly5
  /-- `CLOSE` (R182). -/
  | close
  /-- `WRITE_FRAME` (R82): register index and data byte. -/
  | writeFrame (idx : BitVec 7) (value : Byte)
  /-- `READ_FRAME` (R83): the outgoing address byte, whose bit 7 is 0 in a well-formed read, and the count of
  incoming bytes. -/
  | readFrame (startAddr count : Byte)
  deriving DecidableEq, Repr

end Sys2Proof
end

