-- ==== Sys2Proof/Machine/State.lean ====
section
/-! DEFINITION. The state of the block (R20 to R41), as plain data, and the machine right after reset (R40, R221).
Beside the state the spec names it holds what the host's interface needs as data: the trace and the returned values,
which are all an observer sees (R3), the operations callers have issued and not yet had accepted, the levels the
environment will answer with, and two counters that draw free values. -/

namespace Sys2Proof.Machine

/-- Why a step stops with a fault. Each names a precondition the spec puts on a primitive; no state that meets
`Safety.Inv` reaches one. All are safe: the model stops where the spec gives no effect. -/
inductive Fault where
  /-- Raised by `WR(p, l)` where `mode[p]` is not `OUT` (R112). Safe. -/
  | pinNotOutput (p : OutPin)
  /-- Raised by `RD(SDI)` where `mode[SDI]` is not `IN` (R113). Safe. -/
  | pinNotInput
  /-- Raised by `unlock()` where the caller does not hold `LOCK` (R63). Safe. -/
  | lockNotHeld
  /-- Raised by reading `BANK`, or a local of the decode, that holds no value (R25, R40). Safe. -/
  | noValue
  /-- Raised by issuing an operation for a caller that has one in progress (R3, R16). Safe. -/
  | callerBusy
  /-- Raised where a sequencer position lies past its operation's last step (R27). Safe. -/
  | sequencerOverrun
  deriving DecidableEq, Repr

/-- Why a step has no meaning. The spec's own refusals (R196) are no such stop: they leave a next state with the
run's mark, `State.refusals`. -/
inductive Refusal where
  /-- Raised by an arm of `exec` whose instruction is not modelled yet. Safe. No arm raises it. -/
  | notModelled (mnemonic : String)
  deriving DecidableEq, Repr

/-- The closed list of reasons of `refuse(reason)` (R196). -/
inductive RefuseReason where
  | notReady
  | closed
  | alreadyBuilt
  | illegalCommand
  deriving DecidableEq, Repr

/-- `mode[p]` (R22). -/
inductive PinMode where
  | unset
  | out
  | input
  deriving DecidableEq, Repr

/-- `LOCK` (R28): free, or held by a caller. -/
inductive Lock where
  | free
  | held (caller : Nat)
  deriving DecidableEq, Repr

/-- `LIFE` (R29). -/
inductive Life where
  | unbuilt
  | ready
  | closed
  deriving DecidableEq, Repr

/-- A token of the trace (R14): `modeOut p` is `Mo(p)`, `modeIn p` is `Mi(p)`, `wr` is one of `S- S+ K+ K- D0 D1`,
`rd` is `Q0` or `Q1`, and `delay` is `T`, that is `DELAY(SETTLE_DELAY)`. -/
inductive Token where
  | modeOut (p : Role)
  | modeIn (p : Role)
  | wr (p : OutPin) (l : Level)
  | rd (l : Level)
  | delay
  deriving DecidableEq, Repr

/-- A pin event of the trace with the caller on whose behalf it was performed (R16). The slave sees only the token;
the caller's name is the model's (R205). -/
structure Event where
  caller : Nat
  token : Token
  deriving DecidableEq, Repr

/-- `(resistance, status)`, always produced together (R39, R150). -/
structure Reading where
  ohms : Binary64
  status : Byte
  deriving DecidableEq, Repr

/-- What an operation returns to its caller (R92). `domainFault` says that the operation ended in `DomainFault` and
returned no value (R164). -/
inductive Result where
  | done
  | byte (b : Byte)
  | bytes (bs : List Byte)
  | reading (r : Reading)
  | temperature (celsius : Binary64) (status : Byte)
  | counters (good bad : Nat)
  | domainFault
  deriving DecidableEq, Repr

/-- The sequencer position of an operation in progress (R27): the operation, and how many of its steps are done.
The tuple of R27 is read off it by `Seq.byteIndex`, `Seq.bitIndex` and `Seq.phase`. -/
structure Seq where
  op : Instr
  pos : Nat
  deriving DecidableEq, Repr

/-- A caller and what is private to it (R205). `port`, `results` and `id` are the model's own fields. -/
structure Caller where
  /-- The name by which `LOCK` records its holder (R205). -/
  id : Nat
  /-- Operations this caller has issued and the controller has not accepted yet, oldest first (R3, R60). -/
  port : List PortWord
  /-- The operation in progress, if there is one (R27). -/
  seq : Option Seq
  /-- `ACC` (R24). -/
  acc : Byte
  /-- The bytes received in the read transaction in progress, in request order: `out` of R126. -/
  out : List Byte
  /-- `BANK` (R25): no entries, but in an acquisition from its read-back to its end. -/
  bank : List Byte
  /-- The locals `resistance` and `status` of an acquisition past its decode (R140). -/
  reading : Option Reading
  /-- What this caller's operations returned, oldest first (R3, R92). -/
  results : List Result
  deriving DecidableEq, Repr

/-- The mark of one refusal: whose operation, and the reason (R196). -/
structure RefusalMark where
  caller : Nat
  reason : RefuseReason
  deriving DecidableEq, Repr

/-- The whole state. -/
structure State where
  /-- `pin[CS]` (R21); no value before the first `WR` (R40). -/
  pinCs : Option Level
  /-- `pin[CLK]` (R21). -/
  pinClk : Option Level
  /-- `pin[SDO]` (R21). -/
  pinSdo : Option Level
  /-- `mode[CS]` (R22). -/
  modeCs : PinMode
  /-- `mode[CLK]` (R22). -/
  modeClk : PinMode
  /-- `mode[SDO]` (R22). -/
  modeSdo : PinMode
  /-- `mode[SDI]` (R22). -/
  modeSdi : PinMode
  /-- `GOOD` (R26). -/
  good : Nat
  /-- `BAD` (R26). -/
  bad : Nat
  /-- `LOCK` (R28). -/
  lock : Lock
  /-- `LIFE` (R29). -/
  life : Life
  /-- The record of a `DomainFault`, never cleared (R164, R197). -/
  domainFault : Bool
  /-- The run's mark of refusals, oldest first (R196). -/
  refusals : List RefusalMark
  /-- The trace, in the order performed (R3, R14). -/
  trace : List Event
  /-- The caller the controller serves now. -/
  caller : Caller
  /-- The other callers (R16, R205). -/
  others : List Caller
  /-- Levels the environment will answer the next samples with, first sample first (R203). MODEL'S OWN (log 5). -/
  answers : List Level
  /-- How many samples the run has taken: draws `Config.oracle` (R41). MODEL'S OWN (log 5). -/
  samples : Nat
  /-- How many choices between agents the run has made: draws `Config.schedule` (R41). MODEL'S OWN (log 6). -/
  turn : Nat
  deriving DecidableEq, Repr

/-- A caller with no operation issued or in progress. `acc` is 0: the spec gives `ACC` no value at reset and nothing
reads it before it is written (R24, R40). DESIGN CHOICE (log 1). -/
def Caller.idle (id : Nat) : Caller :=
  { id, port := [], seq := none, acc := 0, out := [], bank := [], reading := none, results := [] }

/-- The machine before `INIT`, with one caller (R40's first column, R222). Counters and lock hold placeholders that
nothing can read before `INIT` writes them. DESIGN CHOICE (log 1). -/
def State.unbuilt : State where
  pinCs := none
  pinClk := none
  pinSdo := none
  modeCs := .unset
  modeClk := .unset
  modeSdo := .unset
  modeSdi := .unset
  good := 0
  bad := 0
  lock := .free
  life := .unbuilt
  domainFault := false
  refusals := []
  trace := []
  caller := Caller.idle 0
  others := []
  answers := []
  samples := 0
  turn := 0

/-- The tokens of the seven setup events in the order of R180 (R181, decision D8). -/
def setupTokens : List Token :=
  [.modeOut .cs, .modeOut .clk, .modeOut .sdo, .modeIn .sdi, .wr .cs .high, .wr .clk .low, .wr .sdo .low]

/-- The machine right after reset: reset is construction, the operation `INIT` (R220), and every element has the
value of the second column of R40 (R221). The trace holds the seven setup events `INIT` performs (R180), and the
caller that built the instance has had `INIT`'s completion. -/
def State.reset : State where
  pinCs := some .high
  pinClk := some .low
  pinSdo := some .low
  modeCs := .out
  modeClk := .out
  modeSdo := .out
  modeSdi := .input
  good := 0
  bad := 0
  lock := .free
  life := .ready
  domainFault := false
  refusals := []
  trace := setupTokens.map (Event.mk 0)
  caller := { Caller.idle 0 with results := [.done] }
  others := []
  answers := []
  samples := 0
  turn := 0

end Sys2Proof.Machine
end

