-- ==== Sys2Proof/Machine/Binary64.lean ====
section
/-! DEFINITION. The numerics record `FLOAT` (R10, R13, decision D4) and the spec's choice for it, IEEE 754 binary64
rounded to nearest with ties to even. A finite datum is an integer number of units of 2^-1074 (the least positive
binary64), so every operation computes its exact result over the integers and narrows once, at the end. -/

namespace Sys2Proof.Machine

/-- `FLOAT`: the operations of R13 over a carrier `F`. `ofRat` gives the datum of a decimal constant. -/
structure Numerics (F : Type) where
  ofRat : Bool → Nat → Nat → F
  add : F → F → F
  sub : F → F → F
  mul : F → F → F
  div : F → F → F
  sqrt : F → F
  neg : F → F
  lt : F → F → Bool

/-- A decimal constant of the spec in `FLOAT`. -/
def Numerics.lit {F : Type} (N : Numerics F) (l : Lit) : F := N.ofRat l.negative l.num l.den

/-- `real(n)` of R13. -/
def Numerics.real {F : Type} (N : Numerics F) (n : Nat) : F := N.ofRat false n 1

/-! ### The fields of a binary64 datum -/

/-- The sign bit. -/
def Binary64.sign (x : Binary64) : Bool := x.getLsbD 63

/-- Everything but the sign: the 11 exponent bits and the 52 fraction bits. -/
def Binary64.magnitude (x : Binary64) : Nat := x.toNat % (1 <<< 63)

/-- The biased exponent. -/
def Binary64.exponent (x : Binary64) : Nat := Binary64.magnitude x / (1 <<< 52)

/-- The 52 fraction bits. -/
def Binary64.fraction (x : Binary64) : Nat := x.toNat % (1 <<< 52)

/-- The magnitude field of an infinity. -/
def Binary64.infMagnitude : Nat := 0x7FF <<< 52

def Binary64.isNaN (x : Binary64) : Bool := decide (Binary64.infMagnitude < Binary64.magnitude x)

def Binary64.isInf (x : Binary64) : Bool := Binary64.magnitude x == Binary64.infMagnitude

def Binary64.isFinite (x : Binary64) : Bool := decide (Binary64.magnitude x < Binary64.infMagnitude)

/-- How many units of 2^-1074 a finite datum's magnitude is. (At an infinity it is more than at any finite datum,
which is what the comparison needs of it.) -/
def Binary64.units (x : Binary64) : Nat :=
  if Binary64.exponent x = 0 then Binary64.fraction x
  else (1 <<< 52 + Binary64.fraction x) <<< (Binary64.exponent x - 1)

/-- The signed number of units. -/
def Binary64.signedUnits (x : Binary64) : Int :=
  if Binary64.sign x then -(Binary64.units x : Int) else (Binary64.units x : Int)

/-- A datum from its sign and its magnitude field. -/
def Binary64.pack (negative : Bool) (mag : Nat) : Binary64 :=
  BitVec.ofNat 64 ((if negative then 1 <<< 63 else 0) + mag)

/-- A quiet NaN whose sign and payload the spec's format leaves free (log 11). -/
def Binary64.freeNaN (op : FloatOp) (x y : Binary64) : Binary64 :=
  let tail := Config.nanTail op x y
  tail.extractLsb' 51 1 ++ (0x7FF : BitVec 11) ++ (1 : BitVec 1) ++ tail.extractLsb' 0 51

/-! ### Rounding to nearest, ties to even (R13, decision D4) -/

/-- How many low binary digits of an `n`-unit magnitude lie below a 53-bit significand. -/
def Binary64.excess (n : Nat) : Nat := n.log2 + 1 - 53

/-- The magnitude field of a significand of `f` times 2^`k` units; past the largest finite datum, infinity. -/
def Binary64.assemble (k f : Nat) : Nat := min (k <<< 52 + f) Binary64.infMagnitude

/-- The magnitude field nearest to `num/den` units, ties to even. -/
def Binary64.roundQuot (num den : Nat) : Nat :=
  let k := Binary64.excess (num / den)
  let d := den <<< k
  let f := num / d
  let r := num % d
  Binary64.assemble k (if d < 2 * r ∨ (2 * r = d ∧ f % 2 = 1) then f + 1 else f)

/-- The greatest `g` with `f ≤ g < f + 2^n` whose square is at most `x`, found digit by digit, where `f` is a multiple of
2^`n` whose square is at most `x`. -/
def Binary64.rootDigits (x : Nat) : Nat → Nat → Nat
  | 0, f => f
  | n + 1, f =>
    let g := f + 1 <<< n
    if g * g ≤ x then Binary64.rootDigits x n g else Binary64.rootDigits x n f

/-- The magnitude field nearest to the square root of `x`, in units, ties to even. -/
def Binary64.roundRoot (x : Nat) : Nat :=
  let k := x.log2 / 2 + 1 - 53
  let y := x >>> (2 * k)
  let f := Binary64.rootDigits y 53 0
  let half := ((2 * f + 1) * (2 * f + 1)) <<< (2 * k)
  Binary64.assemble k (if half < 4 * x ∨ (half = 4 * x ∧ f % 2 = 1) then f + 1 else f)

/-! ### The operations -/

/-- The datum nearest to `±num/den`. -/
def Binary64.ofRat (negative : Bool) (num den : Nat) : Binary64 :=
  Binary64.pack negative (Binary64.roundQuot (num <<< 1074) den)

/-- `fneg`: the sign bit inverted. -/
def Binary64.neg (x : Binary64) : Binary64 := x ^^^ (1 : BitVec 64) <<< 63

/-- `f+`. An exact zero sum is +0, but for the sum of two negative zeros. -/
def Binary64.add (x y : Binary64) : Binary64 :=
  if Binary64.isNaN x || Binary64.isNaN y then Binary64.freeNaN .add x y
  else if Binary64.isInf x then
    if Binary64.isInf y && Binary64.sign x != Binary64.sign y then Binary64.freeNaN .add x y else x
  else if Binary64.isInf y then y
  else
    let sum := Binary64.signedUnits x + Binary64.signedUnits y
    if sum = 0 then Binary64.pack (Binary64.sign x && Binary64.sign y) 0
    else Binary64.pack (decide (sum < 0)) (Binary64.roundQuot sum.natAbs 1)

/-- `f-`. -/
def Binary64.sub (x y : Binary64) : Binary64 := Binary64.add x (Binary64.neg y)

/-- `f*`. -/
def Binary64.mul (x y : Binary64) : Binary64 :=
  let negative := Binary64.sign x != Binary64.sign y
  if Binary64.isNaN x || Binary64.isNaN y then Binary64.freeNaN .mul x y
  else if Binary64.isInf x || Binary64.isInf y then
    if Binary64.magnitude x = 0 ∨ Binary64.magnitude y = 0 then Binary64.freeNaN .mul x y
    else Binary64.pack negative Binary64.infMagnitude
  else Binary64.pack negative (Binary64.roundQuot (Binary64.units x * Binary64.units y) (1 <<< 1074))

/-- `f/`. -/
def Binary64.div (x y : Binary64) : Binary64 :=
  let negative := Binary64.sign x != Binary64.sign y
  if Binary64.isNaN x || Binary64.isNaN y then Binary64.freeNaN .div x y
  else if Binary64.isInf x then
    if Binary64.isInf y then Binary64.freeNaN .div x y else Binary64.pack negative Binary64.infMagnitude
  else if Binary64.isInf y then Binary64.pack negative 0
  else if Binary64.magnitude y = 0 then
    if Binary64.magnitude x = 0 then Binary64.freeNaN .div x y else Binary64.pack negative Binary64.infMagnitude
  else Binary64.pack negative (Binary64.roundQuot (Binary64.units x <<< 1074) (Binary64.units y))

/-- `fsqrt`. -/
def Binary64.sqrt (x : Binary64) : Binary64 :=
  if Binary64.isNaN x then Binary64.freeNaN .sqrt x x
  else if Binary64.magnitude x = 0 then x
  else if Binary64.sign x then Binary64.freeNaN .sqrt x x
  else if Binary64.isInf x then x
  else Binary64.pack false (Binary64.roundRoot (Binary64.units x <<< 1074))

/-- The comparison `<`: false at a NaN, and the two zeros are equal. -/
def Binary64.lt (x y : Binary64) : Bool :=
  !Binary64.isNaN x && !Binary64.isNaN y && decide (Binary64.signedUnits x < Binary64.signedUnits y)

/-- `FLOAT` as the spec chooses it (decision D4). -/
def float : Numerics Binary64 where
  ofRat := Binary64.ofRat
  add := Binary64.add
  sub := Binary64.sub
  mul := Binary64.mul
  div := Binary64.div
  sqrt := Binary64.sqrt
  neg := Binary64.neg
  lt := Binary64.lt

end Sys2Proof.Machine
end

