-- ==== Sys2Proof/Machine/Thermometer.lean ====
section
/-! DEFINITION. The pure functions of the upper layer over the numerics record: the resistance (R147), the exact
inverse (R162 to R165), Horner evaluation (R169), and the four conversions (R160, R166 to R168). They are no
operations a caller can issue (R98). -/

namespace Sys2Proof.Machine

/-- R147: `(real(code) f* RREF) f/ ADC_FS`. -/
def resistanceOf {F : Type} (N : Numerics F) (code : Nat) : F :=
  N.div (N.mul (N.real code) (N.lit Config.rref)) (N.lit Config.adcFs)

/-- `t1` of R163. -/
def cvdT1 {F : Type} (N : Numerics F) : F := N.mul (N.lit Config.cvdA) (N.lit Config.r0)

/-- `d1` of R163. -/
def cvdD1 {F : Type} (N : Numerics F) : F :=
  N.mul (N.mul (N.mul (N.lit Config.cvdA) (N.lit Config.cvdA)) (N.lit Config.r0)) (N.lit Config.r0)

/-- `d2` of R163. -/
def cvdD2 {F : Type} (N : Numerics F) (R : F) : F :=
  N.mul (N.mul (N.mul (N.real 4) (N.lit Config.cvdB)) (N.lit Config.r0)) (N.sub (N.lit Config.r0) R)

/-- `disc` of R163. -/
def cvdDisc {F : Type} (N : Numerics F) (R : F) : F := N.sub (cvdD1 N) (cvdD2 N R)

/-- `den` of R163. -/
def cvdDen {F : Type} (N : Numerics F) : F := N.mul (N.mul (N.real 2) (N.lit Config.cvdB)) (N.lit Config.r0)

/-- `t_exact(R)` as the expression tree of R163. `none` is `DomainFault` (R164): no value. Below `R0` the value is
the formula's, not corrected (R165). A resistance that is not finite is evaluated by the rules of the numerics record;
that a direct call with one is not refused, as U17 recommends, is a DESIGN CHOICE (log 22). -/
def tExact {F : Type} (N : Numerics F) (R : F) : Option F :=
  if N.lt (cvdDisc N R) (N.real 0) then none
  else some (N.div (N.add (N.neg (cvdT1 N)) (N.sqrt (cvdDisc N R))) (cvdDen N))

/-- `horner(c, n, R)` of R169, in exactly its nesting: `acc` is `c[n]`, and each step down is `(R f* acc) f+ c[k]`.
A resistance that is not finite is propagated, not refused: DESIGN CHOICE (log 22). -/
def horner {F : Type} (N : Numerics F) : (n : Nat) → (Fin (n + 1) → F) → F → F
  | 0, c, _ => c 0
  | n + 1, c, R => N.add (N.mul R (horner N n (fun k => c k.succ) R)) (c 0)

/-- `conv_s` of R160: one of four pure functions of the resistance, each with its own coefficients. -/
def conv (s : Strategy) (R : Binary64) : Option Binary64 :=
  match s with
  | .exact => tExact float R
  | .poly3 => some (horner float 3 Config.poly3C R)
  | .poly4 => some (horner float 4 Config.poly4C R)
  | .poly5 => some (horner float 5 Config.poly5C R)

/-- R171: the strategy of a temperature request that names none. -/
def defaultStrategy : Strategy := .poly5

end Sys2Proof.Machine
end

