-- ==== Sys2Proof/Machine/Ops.lean ====
section
/-! DEFINITION. The named operations over the state: the pin primitives (R110 to R115), the lock (R62, R63), the steps
an operation is made of, accepting, refusing and ending an operation, and performing its steps one after another.
The block takes no trap (R190, R195): what stands in an exception's place is `State.refuse` (R196) and the record of a
`DomainFault` (R164, R197), each one shared operation here; nothing is saved and there is no return from one (R198). -/

namespace Sys2Proof.Machine

/-! ### Pins and modes -/

/-- `pin[p]` (R21). -/
def State.pin (s : State) : OutPin → Option Level
  | .cs => s.pinCs
  | .clk => s.pinClk
  | .sdo => s.pinSdo

/-- `pin[p] <- l` (R21). -/
def State.setPin (s : State) (p : OutPin) (l : Level) : State :=
  match p with
  | .cs => { s with pinCs := some l }
  | .clk => { s with pinClk := some l }
  | .sdo => { s with pinSdo := some l }

/-- `mode[p]` (R22). -/
def State.mode (s : State) : Role → PinMode
  | .cs => s.modeCs
  | .clk => s.modeClk
  | .sdo => s.modeSdo
  | .sdi => s.modeSdi

/-- `mode[p] <- m` (R22). -/
def State.setMode (s : State) (p : Role) (m : PinMode) : State :=
  match p with
  | .cs => { s with modeCs := m }
  | .clk => { s with modeClk := m }
  | .sdo => { s with modeSdo := m }
  | .sdi => { s with modeSdi := m }

/-- A pin event appended to the trace (R14). -/
def State.emit (s : State) (t : Token) : State := { s with trace := s.trace ++ [⟨s.caller.id, t⟩] }

/-- What one step of an operation leads to: the state after it, the caller waiting (R62, R182), or a fault of the
model where a precondition of the spec fails. -/
inductive Effect where
  | done (s : State)
  | wait
  | fault (f : Fault)
  deriving DecidableEq, Repr

/-- `MODE_OUT(p)` (R110): it does not change `pin[p]`. -/
def State.modeOut (s : State) (p : Role) : State := (s.setMode p .out).emit (.modeOut p)

/-- `MODE_IN(p)` (R111). -/
def State.modeIn (s : State) (p : Role) : State := (s.setMode p .input).emit (.modeIn p)

/-- `WR(p, l)` (R112): precondition `mode[p] = OUT`; an event even where the level does not change. -/
def State.wr (s : State) (p : OutPin) (l : Level) : Effect :=
  if s.mode p.role = .out then .done ((s.setPin p l).emit (.wr p l)) else .fault (.pinNotOutput p)

/-- The level present on data-in (R23, R113): the next one the environment has given, else a free value. -/
def State.sdi (s : State) : Level :=
  match s.answers with
  | l :: _ => l
  | [] => Config.oracle s.samples

/-- `RD(SDI)` (R113) and the shift of its level into `ACC` (R122). -/
def State.sample (s : State) : Effect :=
  if s.modeSdi = .input then
    .done (State.emit
      { s with
        answers := s.answers.tail
        samples := s.samples + 1
        caller := { s.caller with acc := shiftIn s.caller.acc s.sdi } }
      (.rd s.sdi))
  else .fault .pinNotInput

/-- `DELAY(SETTLE_DELAY)` (R114): an event and nothing else. -/
def State.delay (s : State) : State := s.emit .delay

/-- The duration of a pin event that has one: `T` is `DELAY(SETTLE_DELAY)` (R9, R14, R114). No rule reads it (R233). -/
def Token.durationUs : Token → Option Nat
  | .delay => some Config.settleDelayUs
  | _ => none

/-- The role a pin event acts on (R110 to R113). -/
def Token.role : Token → Option Role
  | .modeOut p => some p
  | .modeIn p => some p
  | .wr p _ => some p.role
  | .rd _ => some .sdi
  | .delay => none

/-- The physical pin a pin event acts on, by `PINMAP` (R10, R202). No rule reads it. -/
def Token.physicalPin (t : Token) : Option Nat := t.role.map Config.pinMap

/-- The token as R14 writes it. -/
def Token.text : Token → String
  | .modeOut p => "Mo(" ++ roleText p ++ ")"
  | .modeIn p => "Mi(" ++ roleText p ++ ")"
  | .wr .cs .low => "S-"
  | .wr .cs .high => "S+"
  | .wr .clk .low => "K-"
  | .wr .clk .high => "K+"
  | .wr .sdo .low => "D0"
  | .wr .sdo .high => "D1"
  | .rd .low => "Q0"
  | .rd .high => "Q1"
  | .delay => "T"
where
  /-- A role's name in R14. -/
  roleText : Role → String
    | .cs => "CS"
    | .clk => "CLK"
    | .sdo => "SDO"
    | .sdi => "SDI"

/-! ### The lock -/

/-- `lock()` (R62): enabled only when `LOCK = FREE`. -/
def State.takeLock (s : State) : Effect :=
  match s.lock with
  | .free => .done { s with lock := .held s.caller.id }
  | .held _ => .wait

/-- `unlock()` (R63): requires `LOCK = HELD(c)`. -/
def State.releaseLock (s : State) : Effect :=
  if s.lock = .held s.caller.id then .done { s with lock := .free } else .fault .lockNotHeld

/-! ### The decode and the counters -/

/-- Step 6 of `ACQUIRE` on a full bank (R146 to R148): a pure function of the eight bytes (R57). -/
def decodeBank : List Byte → Option Reading
  | [_, msb, lsb, _, _, _, _, status] => some ⟨resistanceOf float (adcCode msb lsb).toNat, status⟩
  | _ => none

/-- The decode of `BANK` into the locals `resistance` and `status` (R146 to R148). -/
def State.decodeStep (s : State) : Effect :=
  match decodeBank s.caller.bank with
  | some r => .done { s with caller := { s.caller with reading := some r } }
  | none => .fault .noValue

/-- The counter update (R149), one indivisible step (R65, R232). -/
def State.count (s : State) : Effect :=
  match s.caller.reading with
  | some r =>
    .done { s with
      good := s.good + (if goodStatus r.status then 1 else 0)
      bad := s.bad + (if goodStatus r.status then 0 else 1) }
  | none => .fault .noValue

/-! ### Accepting, refusing and ending an operation -/

/-- The caller with no operation in progress: what was local to one no longer exists (R25, R150). -/
def Caller.vacate (c : Caller) : Caller := { c with seq := none, out := [], bank := [], reading := none }

/-- The caller after its operation returned `r` (R92). -/
def Caller.finish (c : Caller) (r : Result) : Caller := { c.vacate with results := c.results ++ [r] }

/-- The operation returns `r` to its caller. -/
def State.finish (s : State) (r : Result) : State := { s with caller := s.caller.finish r }

/-- `refuse(reason)` (R196): no state changes and no pin event happens; the run keeps the mark. -/
def State.refuse (s : State) (reason : RefuseReason) : State :=
  { s with refusals := s.refusals ++ [⟨s.caller.id, reason⟩] }

/-- The controller accepts an operation from the caller (R3): its sequencer position is its first step. -/
def State.accept (s : State) (i : Instr) : State :=
  { s with caller := { s.caller.vacate with seq := some ⟨i, 0⟩ } }

/-- The lifecycle's precondition of an operation (R183, R184): `none` where it may be performed. -/
def admission (i : Instr) (life : Life) : Option RefuseReason :=
  match life with
  | .unbuilt => if i = .init then none else some .notReady
  | .ready => if i = .init then some .alreadyBuilt else none
  | .closed => if i = .init then some .alreadyBuilt else some .closed

/-- Does a caller keep `CLOSE` waiting? It does with an operation in progress (decision D24). A caller waiting to
perform its own `CLOSE` has not begun it. DESIGN CHOICE (log 9). -/
def Caller.busy (c : Caller) : Bool :=
  match c.seq with
  | none => false
  | some q => decide (q.op ≠ .close)

/-- R182: `LOCK = FREE` and no operation of any other caller in progress. -/
def State.quiet (s : State) : Bool := decide (s.lock = .free) && s.others.all (fun c => !c.busy)

/-- `CLOSE` where the lifecycle still lets it be performed (R182, R183): the report, or the wait. -/
def State.closeStep (s : State) : Effect :=
  match s.life with
  | .ready => if s.quiet then .done { s.finish (.counters s.good s.bad) with life := .closed } else .wait
  | .unbuilt => .done { s.refuse .notReady with caller := s.caller.vacate }
  | .closed => .done { s.refuse .closed with caller := s.caller.vacate }

/-- The last lines of `INIT` (R180): `GOOD <- 0; BAD <- 0; LOCK <- FREE; LIFE <- READY`. -/
def State.build (s : State) : State := { s with good := 0, bad := 0, lock := .free, life := .ready }

/-- `temperature <- conv_s(resistance); return (temperature, status)` (R160). Where the conversion has no value,
`DomainFault` is recorded and no value returned (R164, R197); the counter is updated and the lock free by then. -/
def State.returnTemperature (s : State) (k : Strategy) : Effect :=
  match s.caller.reading with
  | some r =>
    .done { s with
      domainFault := s.domainFault || (conv k r.ohms).isNone
      caller := s.caller.finish
        (match conv k r.ohms with
          | some t => .temperature t r.status
          | none => .domainFault) }
  | none => .fault .noValue

/-- `return (resistance, status)` (R150). -/
def State.returnReading (s : State) : Effect :=
  match s.caller.reading with
  | some r => .done (s.finish (.reading r))
  | none => .fault .noValue

/-! ### The steps of an operation -/

/-- One step of an operation: a pin event (R110 to R114), or one of the lines between pin events in the pseudocode of
R121 to R182. -/
inductive Micro where
  | modeOut (p : Role)
  | modeIn (p : Role)
  | wr (p : OutPin) (l : Level)
  /-- `ACC <- 0` (R122). -/
  | clearAcc
  /-- `l <- RD(SDI)` and the shift of `l` into `ACC` (R122). -/
  | sample
  /-- `out[k] <- ACC` (R126). -/
  | keep
  | delay
  | lock
  | unlock
  /-- `BANK[0..7] <- out` (R144). -/
  | bank
  | decode
  | count
  | build
  | close
  | returnDone
  | returnByte
  | returnBytes
  | returnReading
  | returnTemperature (k : Strategy)
  deriving DecidableEq, Repr

/-- The effect of one step for the caller being served. -/
def State.perform (s : State) : Micro → Effect
  | .modeOut p => .done (s.modeOut p)
  | .modeIn p => .done (s.modeIn p)
  | .wr p l => s.wr p l
  | .clearAcc => .done { s with caller := { s.caller with acc := 0 } }
  | .sample => s.sample
  | .keep => .done { s with caller := { s.caller with out := s.caller.out ++ [s.caller.acc] } }
  | .delay => .done s.delay
  | .lock => s.takeLock
  | .unlock => s.releaseLock
  | .bank => .done { s with caller := { s.caller with bank := s.caller.out } }
  | .decode => s.decodeStep
  | .count => s.count
  | .build => .done s.build
  | .close => s.closeStep
  | .returnDone => .done (s.finish .done)
  | .returnByte => .done (s.finish (.byte s.caller.acc))
  | .returnBytes => .done (s.finish (.bytes s.caller.out))
  | .returnReading => s.returnReading
  | .returnTemperature k => s.returnTemperature k

/-- The sequencer position moves to the next step (R27). -/
def State.advance (s : State) : State :=
  { s with caller := { s.caller with seq := s.caller.seq.map (fun q => { q with pos := q.pos + 1 }) } }

/-- Perform steps one after another, with no event of another caller between them, until they end, the caller has
to wait, or a precondition fails. A waiting caller keeps its sequencer position. -/
def State.performAll (s : State) : List Micro → Host.Outcome State Fault Refusal
  | [] => .next s
  | m :: ms =>
    match s.perform m with
    | .done t => t.advance.performAll ms
    | .wait => .next s
    | .fault f => .fault f

/-- An operation as one step (R27, decision D16): refused by the lifecycle (R183, R184), or accepted and its steps
performed. A caller has one operation at a time (R3). -/
def State.operate (s : State) (i : Instr) (steps : List Micro) : Host.Outcome State Fault Refusal :=
  match s.caller.seq with
  | some _ => .fault .callerBusy
  | none =>
    match admission i s.life with
    | some reason => .next (s.refuse reason)
    | none => (s.accept i).performAll steps

end Sys2Proof.Machine
end

