-- ==== Sys2Proof/Machine/Lifecycle.lean ====
section
/-! DEFINITION. Construction and end of life: `INIT` and `CLOSE` (R180 to R184). -/

namespace Sys2Proof.Machine

/-- The steps of `INIT` (R180): the seven setup events in the order of R181 (decision D8), then the instance. -/
def stepsInit : List Micro :=
  [.modeOut .cs, .modeOut .clk, .modeOut .sdo, .modeIn .sdi, .wr .cs .high, .wr .clk .low, .wr .sdo .low, .build,
   .returnDone]

/-- The one step of `CLOSE` (R182): it produces no pin event. -/
def stepsClose : List Micro := [.close]

/-- `INIT` (R180), the block's only reset (R220). -/
def execInit (s : State) : Host.Outcome State Fault Refusal := s.operate .init stepsInit

/-- `CLOSE` (R182). -/
def execClose (s : State) : Host.Outcome State Fault Refusal := s.operate .close stepsClose

end Sys2Proof.Machine
end

