-- ==== Sys2Proof/Machine/Bitlink.lean ====
section
/-! DEFINITION. The Bit-Link Layer: `SENDBYTE`, `RECVBYTE`, `WRITEREG`, `READREGS` (R120 to R127), and the two wire
frames they emit (R82, R83). -/

namespace Sys2Proof.Machine

/-! ### The steps the layer's operations share -/

/-- One outgoing bit (R84, R121): clock high, data, clock low. -/
def sendBit (b : Bool) : List Micro := [.wr .clk .high, .wr .sdo (Level.ofBit b), .wr .clk .low]

/-- `sendByte(byte)` (R121): eight bits, most significant first. -/
def sendByte (byte : Byte) : List Micro := (bitsMsbFirst byte).flatMap sendBit

/-- One incoming bit (R85, R122): clock high, sample, clock low. -/
def recvBit : List Micro := [.wr .clk .high, .sample, .wr .clk .low]

/-- `recvByte()` (R122): the accumulator cleared (decision D28), then eight bits. -/
def recvByte : List Micro := .clearAcc :: (List.replicate Config.byteBits recvBit).flatten

/-- `count` sequential `recvByte` calls (R126). -/
def recvBytes (count : Nat) : List Micro := (List.replicate count (recvByte ++ [.keep])).flatten

/-- The write frame (R82): chip-select low, the address byte, the data byte, chip-select high. -/
def writeFrameSteps (address value : Byte) : List Micro :=
  [.wr .cs .low] ++ sendByte address ++ sendByte value ++ [.wr .cs .high]

/-- The read frame (R83): chip-select low, the address byte, `count` bytes in, chip-select high. -/
def readFrameSteps (address : Byte) (count : Nat) : List Micro :=
  [.wr .cs .low] ++ sendByte address ++ recvBytes count ++ [.wr .cs .high]

/-! ### The operations -/

/-- The steps of `SENDBYTE` (R121). -/
def stepsSendbyte (byte : Byte) : List Micro := sendByte byte ++ [.returnDone]

/-- The steps of `RECVBYTE` (R122). -/
def stepsRecvbyte : List Micro := recvByte ++ [.returnByte]

/-- The steps of `WRITEREG` (R124). -/
def stepsWritereg (addr value : Byte) : List Micro := writeFrameSteps (writeAddress addr) value ++ [.returnDone]

/-- The steps of `READREGS` (R126). -/
def stepsReadregs (startAddr count : Byte) : List Micro :=
  readFrameSteps (readAddress startAddr) count.toNat ++ [.returnBytes]

/-- The steps of a bare write frame (R82): what `WRITEREG` emits for the register of that index. -/
def stepsWriteFrame (idx : BitVec 7) (value : Byte) : List Micro :=
  writeFrameSteps (frameAddress idx) value ++ [.returnDone]

/-- The steps of a bare read frame (R83): what `READREGS` emits. A frame whose first bit is 1 is malformed and the
block does not refuse it (R94). -/
def stepsReadFrame (startAddr count : Byte) : List Micro := readFrameSteps startAddr count.toNat ++ [.returnBytes]

/-- `SENDBYTE byte` (R121). -/
def execSendbyte (byte : Byte) (s : State) : Host.Outcome State Fault Refusal :=
  s.operate (.sendbyte byte) (stepsSendbyte byte)

/-- `RECVBYTE` (R122). -/
def execRecvbyte (s : State) : Host.Outcome State Fault Refusal := s.operate .recvbyte stepsRecvbyte

/-- `WRITEREG addr, value` (R124, R125). -/
def execWritereg (addr value : Byte) (s : State) : Host.Outcome State Fault Refusal :=
  s.operate (.writereg addr value) (stepsWritereg addr value)

/-- `READREGS startAddr, count` (R126). -/
def execReadregs (startAddr count : Byte) (s : State) : Host.Outcome State Fault Refusal :=
  s.operate (.readregs startAddr count) (stepsReadregs startAddr count)

/-- The table's `WRITE_FRAME` (R82). -/
def execWriteFrame (idx : BitVec 7) (value : Byte) (s : State) : Host.Outcome State Fault Refusal :=
  s.operate (.writeFrame idx value) (stepsWriteFrame idx value)

/-- The table's `READ_FRAME` (R83). -/
def execReadFrame (startAddr count : Byte) (s : State) : Host.Outcome State Fault Refusal :=
  s.operate (.readFrame startAddr count) (stepsReadFrame startAddr count)

end Sys2Proof.Machine
end

