-- ==== Sys2Proof/Machine/Acquisition.lean ====
section
/-! DEFINITION. The acquisition cycle `ACQUIRE` (R140 to R151). -/

namespace Sys2Proof.Machine

/-- Steps 1 to 6 of the acquisition (R140), which `ACQUIRE` and every `TEMP_*` share: lock, trigger, settle, read
back, unlock, decode, count. -/
def acquisition : List Micro :=
  [.lock]
    ++ writeFrameSteps (writeAddress 0x00) Config.configTrigger
    ++ [.delay]
    ++ readFrameSteps (readAddress 0x00) Config.nregs ++ [.bank]
    ++ [.unlock]
    ++ [.decode, .count]

/-- The steps of `ACQUIRE` (R140): the cycle and the return of `(resistance, status)` (R150). -/
def stepsAcquire : List Micro := acquisition ++ [.returnReading]

/-- `ACQUIRE` (R140). -/
def execAcquire (s : State) : Host.Outcome State Fault Refusal := s.operate .acquire stepsAcquire

end Sys2Proof.Machine
end

