-- ==== Sys2Proof/Machine/Temperature.lean ====
section
/-! DEFINITION. The four temperature operations: an acquisition followed by a pure conversion (R160 to R171). -/

namespace Sys2Proof.Machine

/-- The steps of `TEMP_EXACT` (R161). -/
def stepsTempExact : List Micro := acquisition ++ [.returnTemperature .exact]

/-- The steps of `TEMP_POLY3` (R166). -/
def stepsTempPoly3 : List Micro := acquisition ++ [.returnTemperature .poly3]

/-- The steps of `TEMP_POLY4` (R167). -/
def stepsTempPoly4 : List Micro := acquisition ++ [.returnTemperature .poly4]

/-- The steps of `TEMP_POLY5` (R168). -/
def stepsTempPoly5 : List Micro := acquisition ++ [.returnTemperature .poly5]

/-- `TEMP_EXACT` (R161). -/
def execTempExact (s : State) : Host.Outcome State Fault Refusal := s.operate .tempExact stepsTempExact

/-- `TEMP_POLY3` (R166). -/
def execTempPoly3 (s : State) : Host.Outcome State Fault Refusal := s.operate .tempPoly3 stepsTempPoly3

/-- `TEMP_POLY4` (R167). -/
def execTempPoly4 (s : State) : Host.Outcome State Fault Refusal := s.operate .tempPoly4 stepsTempPoly4

/-- `TEMP_POLY5` (R168). -/
def execTempPoly5 (s : State) : Host.Outcome State Fault Refusal := s.operate .tempPoly5 stepsTempPoly5

end Sys2Proof.Machine
end

