-- ==== Sys2Proof/Machine/Program.lean ====
section
/-! DEFINITION. The steps of every operation, by which the sequencer of an operation in progress finds its next one
(R27), and the sequencer position as the tuple of R27. -/

namespace Sys2Proof.Machine

/-- The steps of each operation, in order. -/
def steps : Instr → List Micro
  | .init => stepsInit
  | .sendbyte byte => stepsSendbyte byte
  | .recvbyte => stepsRecvbyte
  | .writereg addr value => stepsWritereg addr value
  | .readregs startAddr count => stepsReadregs startAddr count
  | .acquire => stepsAcquire
  | .tempExact => stepsTempExact
  | .tempPoly3 => stepsTempPoly3
  | .tempPoly4 => stepsTempPoly4
  | .tempPoly5 => stepsTempPoly5
  | .close => stepsClose
  | .writeFrame idx value => stepsWriteFrame idx value
  | .readFrame startAddr count => stepsReadFrame startAddr count

/-- The step a sequencer position stands at. -/
def Seq.next (q : Seq) : Option Micro := (steps q.op)[q.pos]?

/-- The steps already done at a sequencer position. -/
def Seq.past (q : Seq) : List Micro := (steps q.op).take q.pos

/-- Is a step a pin event, one of the primitives of R110 to R114? -/
def Micro.isPinEvent : Micro → Bool
  | .modeOut _ => true
  | .modeIn _ => true
  | .wr _ _ => true
  | .sample => true
  | .delay => true
  | _ => false

/-- How many bits have been moved: each ends with the clock driven low. `INIT` moves none, though it drives the clock
to its idle level: DESIGN CHOICE (log 23). -/
def Seq.bitsDone (q : Seq) : Nat := if q.op = .init then 0 else q.past.count (.wr .clk .low)

/-- `byte_index` of R27: the bytes already moved in this operation. -/
def Seq.byteIndex (q : Seq) : Nat := q.bitsDone / 8

/-- `bit_index` of R27: 7 down to 0 within a byte. R27 gives none where no bit is being moved (chip-select, the delay,
the lock, the decode, `INIT`); there it is 7, that of the byte to come if there is one: DESIGN CHOICE (log 23). -/
def Seq.bitIndex (q : Seq) : Nat := 7 - q.bitsDone % 8

/-- `phase` of R27: 0 clock driven high, 1 data driven or sampled, 2 clock driven low. R27 gives none where no bit is
being moved; there, and in all of `INIT`, it is `none`: DESIGN CHOICE (log 23). -/
def Seq.phase (q : Seq) : Option Nat :=
  if q.op = .init then none
  else
    match q.next with
    | some (.wr .clk .high) => some 0
    | some (.wr .sdo _) => some 1
    | some .sample => some 1
    | some (.wr .clk .low) => some 2
    | _ => none

end Sys2Proof.Machine
end

