-- ==== Sys2Proof/Machine/Dispatch.lean ====
section
/-! DEFINITION. One arm per constructor of `Instr`. -/

namespace Sys2Proof.Machine

def exec (i : Instr) (s : State) : Host.Outcome State Fault Refusal :=
  match i with
  | .init => Sys2Proof.Machine.execInit s
  | .sendbyte byte => Sys2Proof.Machine.execSendbyte byte s
  | .recvbyte => Sys2Proof.Machine.execRecvbyte s
  | .writereg addr value => Sys2Proof.Machine.execWritereg addr value s
  | .readregs startAddr count => Sys2Proof.Machine.execReadregs startAddr count s
  | .acquire => Sys2Proof.Machine.execAcquire s
  | .tempExact => Sys2Proof.Machine.execTempExact s
  | .tempPoly3 => Sys2Proof.Machine.execTempPoly3 s
  | .tempPoly4 => Sys2Proof.Machine.execTempPoly4 s
  | .tempPoly5 => Sys2Proof.Machine.execTempPoly5 s
  | .close => Sys2Proof.Machine.execClose s
  | .writeFrame idx value => Sys2Proof.Machine.execWriteFrame idx value s
  | .readFrame startAddr count => Sys2Proof.Machine.execReadFrame startAddr count s

end Sys2Proof.Machine
end

