-- ==== Sys2Proof/WellFormed.lean ====
section
/-! DEFINITION. When an instruction is well formed. -/

namespace Sys2Proof

/-- R83: a read frame's first bit is 0. Every other operand is a byte or an index that may take any value
(R54, R91). `READREGS` with bit 7 of `startAddr` set is no ill-formed instruction: the block performs it as
written (R51, R94). -/
def Instr.wf : Instr → Bool
  | .init => true
  | .sendbyte _ => true
  | .recvbyte => true
  | .writereg _ _ => true
  | .readregs _ _ => true
  | .acquire => true
  | .tempExact => true
  | .tempPoly3 => true
  | .tempPoly4 => true
  | .tempPoly5 => true
  | .close => true
  | .writeFrame _ _ => true
  | .readFrame startAddr _ => !startAddr.getLsbD 7

end Sys2Proof
end

