-- ==== Sys2Proof/Decode.lean ====
section
/-! DEFINITION. The decoder of the port's words, total and rejecting by name, the encoder beside it, and the
assembler's text (R80 to R97). -/

namespace Sys2Proof

/-- Why a port word is no instruction. All four lead to `refuse(IllegalCommand)` (R93). -/
inductive DecodeError where
  /-- R93: the `op` value is not in the table of R90. -/
  | illegalOp (op : Byte)
  /-- R93: the `op` is in the table and an unused operand byte is not zero. -/
  | reservedOperand (op : Byte)
  /-- R82: the first bit of a write frame is 1. -/
  | notAWriteFrame
  /-- R83: the first bit of a well-formed read frame is 0. -/
  | notAReadFrame
  deriving DecidableEq, Repr

/-- Field `op` of format `CMD` (R90). -/
def cmdOp (w : BitVec 24) : Byte := w.extractLsb' 16 8

/-- Field `a` of format `CMD` (R90). -/
def cmdA (w : BitVec 24) : Byte := w.extractLsb' 8 8

/-- Field `b` of format `CMD` (R90). -/
def cmdB (w : BitVec 24) : Byte := w.extractLsb' 0 8

/-- A command word whose fields are `op`, `a`, `b` (R90). -/
def cmdWord (op a b : Byte) : BitVec 24 := op.setWidth 24 <<< 16 ||| a.setWidth 24 <<< 8 ||| b.setWidth 24

/-- R93: unused operand bytes are zero, else the word is reserved. -/
def unused (op operands : Byte) (i : Instr) : Except DecodeError Instr :=
  if operands = 0 then .ok i else .error (.reservedOperand op)

/-- The operation map of R90, with the reserved and illegal words of R93. -/
def decodeCmd (w : BitVec 24) : Except DecodeError Instr :=
  let op := cmdOp w
  let a := cmdA w
  let b := cmdB w
  if op = 0x01 then unused op (a ||| b) .init
  else if op = 0x10 then unused op b (.sendbyte a)
  else if op = 0x11 then unused op (a ||| b) .recvbyte
  else if op = 0x12 then .ok (.writereg a b)
  else if op = 0x13 then .ok (.readregs a b)
  else if op = 0x20 then unused op (a ||| b) .acquire
  else if op = 0x30 then unused op (a ||| b) .tempExact
  else if op = 0x31 then unused op (a ||| b) .tempPoly3
  else if op = 0x32 then unused op (a ||| b) .tempPoly4
  else if op = 0x33 then unused op (a ||| b) .tempPoly5
  else if op = 0x7F then unused op (a ||| b) .close
  else .error (.illegalOp op)

/-- R82: `1aaaaaaavvvvvvvv`. -/
def decodeFrameW (w : BitVec 16) : Except DecodeError Instr :=
  if w.getLsbD 15 then .ok (.writeFrame (w.extractLsb' 8 7) (w.extractLsb' 0 8)) else .error .notAWriteFrame

/-- R83: `0aaaaaaa`, with the count of incoming bytes beside it. -/
def decodeFrameR (w count : Byte) : Except DecodeError Instr :=
  if w.getLsbD 7 then .error .notAReadFrame else .ok (.readFrame w count)

/-- The decoder: one branch per format of R80. -/
def decode : PortWord → Except DecodeError Instr
  | .cmd w => decodeCmd w
  | .frameW w => decodeFrameW w
  | .frameR w count => decodeFrameR w count

/-- A write frame's 16 bits: `1`, the index, the data byte (R82). -/
def frameWordW (idx : BitVec 7) (value : Byte) : BitVec 16 :=
  0x8000 ||| idx.setWidth 16 <<< 8 ||| value.setWidth 16

/-- The encoder, from the tables of R90, R82 and R83. -/
def encode : Instr → PortWord
  | .init => .cmd (cmdWord 0x01 0 0)
  | .sendbyte byte => .cmd (cmdWord 0x10 byte 0)
  | .recvbyte => .cmd (cmdWord 0x11 0 0)
  | .writereg addr value => .cmd (cmdWord 0x12 addr value)
  | .readregs startAddr count => .cmd (cmdWord 0x13 startAddr count)
  | .acquire => .cmd (cmdWord 0x20 0 0)
  | .tempExact => .cmd (cmdWord 0x30 0 0)
  | .tempPoly3 => .cmd (cmdWord 0x31 0 0)
  | .tempPoly4 => .cmd (cmdWord 0x32 0 0)
  | .tempPoly5 => .cmd (cmdWord 0x33 0 0)
  | .close => .cmd (cmdWord 0x7F 0 0)
  | .writeFrame idx value => .frameW (frameWordW idx value)
  | .readFrame startAddr count => .frameR startAddr count

/-- The word of the port a number of `nbits` bits stands for: 24 bits a command word, 16 a write frame, 8 the
outgoing part of a read frame, whose count (no bits of the table's row) is then 0. -/
def PortWord.ofNumber (nbits w : Nat) : Option PortWord :=
  if nbits = 24 then some (.cmd (BitVec.ofNat 24 w))
  else if nbits = 16 then some (.frameW (BitVec.ofNat 16 w))
  else if nbits = 8 then some (.frameR (BitVec.ofNat 8 w) 0)
  else none

/-- The decoder on a row's word, numbered as spec/opcode_table.json numbers it. -/
def decodeTableWord (nbits w : Nat) : Option Instr :=
  match PortWord.ofNumber nbits w with
  | none => none
  | some p => (decode p).toOption

/-- A command row of spec/opcode_table.json: `match` and `mask` over the 24-bit word (R98). -/
structure CmdRow where
  mnemonic : String
  pattern : BitVec 24
  mask : BitVec 24
  deriving DecidableEq, Repr

/-- The eleven command rows of spec/opcode_table.json (R90, R98). -/
def cmdTable : List CmdRow :=
  [⟨"INIT", 0x010000, 0xFFFFFF⟩, ⟨"SENDBYTE", 0x100000, 0xFF00FF⟩, ⟨"RECVBYTE", 0x110000, 0xFFFFFF⟩,
   ⟨"WRITEREG", 0x120000, 0xFF0000⟩, ⟨"READREGS", 0x130000, 0xFF0000⟩, ⟨"ACQUIRE", 0x200000, 0xFFFFFF⟩,
   ⟨"TEMP_EXACT", 0x300000, 0xFFFFFF⟩, ⟨"TEMP_POLY3", 0x310000, 0xFFFFFF⟩, ⟨"TEMP_POLY4", 0x320000, 0xFFFFFF⟩,
   ⟨"TEMP_POLY5", 0x330000, 0xFFFFFF⟩, ⟨"CLOSE", 0x7F0000, 0xFFFFFF⟩]

/-- Does a command word match a row? -/
def CmdRow.matches (r : CmdRow) (w : BitVec 24) : Bool := w &&& r.mask == r.pattern

/-- R97: `TEMP s` is the word with `op = 0x30 + index(s)`. -/
def Instr.temp : Strategy → Instr
  | .exact => .tempExact
  | .poly3 => .tempPoly3
  | .poly4 => .tempPoly4
  | .poly5 => .tempPoly5

/-- R97, R171: `TEMP` with no strategy named is `TEMP_POLY5`. -/
def Instr.tempDefault : Instr := Instr.temp .poly5

/-- The mnemonics of R90 and of the table's frame rows. -/
def Instr.mnemonic : Instr → String
  | .init => "INIT"
  | .sendbyte _ => "SENDBYTE"
  | .recvbyte => "RECVBYTE"
  | .writereg _ _ => "WRITEREG"
  | .readregs _ _ => "READREGS"
  | .acquire => "ACQUIRE"
  | .tempExact => "TEMP_EXACT"
  | .tempPoly3 => "TEMP_POLY3"
  | .tempPoly4 => "TEMP_POLY4"
  | .tempPoly5 => "TEMP_POLY5"
  | .close => "CLOSE"
  | .writeFrame _ _ => "WRITE_FRAME"
  | .readFrame _ _ => "READ_FRAME"

/-- An operand byte in decimal, one of the two spellings of R96. -/
def operandText (n : Nat) : String := String.ofList (Nat.toDigits 10 n)

/-- The textual form of R96: the mnemonic, then the operands in the source's order. -/
def Instr.asm (i : Instr) : String :=
  match i with
  | .sendbyte byte => i.mnemonic ++ " " ++ operandText byte.toNat
  | .writereg addr value => i.mnemonic ++ " " ++ operandText addr.toNat ++ ", " ++ operandText value.toNat
  | .readregs startAddr count => i.mnemonic ++ " " ++ operandText startAddr.toNat ++ ", " ++ operandText count.toNat
  | .writeFrame idx value => i.mnemonic ++ " " ++ operandText idx.toNat ++ ", " ++ operandText value.toNat
  | .readFrame startAddr count => i.mnemonic ++ " " ++ operandText startAddr.toNat ++ ", " ++ operandText count.toNat
  | .init => i.mnemonic
  | .recvbyte => i.mnemonic
  | .acquire => i.mnemonic
  | .tempExact => i.mnemonic
  | .tempPoly3 => i.mnemonic
  | .tempPoly4 => i.mnemonic
  | .tempPoly5 => i.mnemonic
  | .close => i.mnemonic

/-! ### Reading the textual form (R96, R97) -/

/-- The value of a digit of R96: its place in the row of the base's digits. Letters are read in either case. -/
def digitOf (base : Nat) (digit : Char) : Option Nat := ("0123456789ABCDEF".toList.take base).idxOf? digit.toUpper

/-- The number a row of digits writes in a base, the first digit the most significant. -/
def numeral (base : Nat) (row : List Char) : Option Nat :=
  row.foldlM (fun high digit => (digitOf base digit).map (fun low => base * high + low)) 0

/-- An operand in hexadecimal or decimal (R96) that is below `bound`. -/
def readOperand (bound : Nat) (cs : List Char) : Option Nat :=
  let value :=
    match cs with
    | [] => none
    | ['0', 'x'] => none
    | '0' :: 'x' :: ds => numeral 16 ds
    | ds => numeral 10 ds
  value.filter (fun n => decide (n < bound))

/-- The words of a line, which spaces and commas part; `word` is the part of one already read, last character first. -/
def splitLine : List Char → List Char → List (List Char)
  | [], word => if word = [] then [] else [word.reverse]
  | c :: cs, word =>
    if c = ' ' ∨ c = ',' then
      if word = [] then splitLine cs [] else word.reverse :: splitLine cs []
    else splitLine cs (c :: word)

/-- `Strategy` by its name (R15). -/
def readStrategy (cs : List Char) : Option Strategy :=
  let name := String.ofList cs
  if name = "EXACT" then some .exact
  else if name = "POLY3" then some .poly3
  else if name = "POLY4" then some .poly4
  else if name = "POLY5" then some .poly5
  else none

/-- The operations without an operand by their mnemonic, and `TEMP` with no strategy named (R96, R97). -/
def readBare (name : String) : Option Instr :=
  if name = "TEMP" then some Instr.tempDefault
  else
    [Instr.init, .recvbyte, .acquire, .tempExact, .tempPoly3, .tempPoly4, .tempPoly5, .close].find?
      (fun i => i.mnemonic == name)

/-- A byte operand (R91). -/
def readByte (cs : List Char) : Option Byte := (readOperand 256 cs).map (BitVec.ofNat 8)

/-- The operation a line of text names (R96), or its pseudo-instruction's (R97). The frame rows are no operation of R96
and are read as `Instr.asm` writes them. -/
def assemble (line : String) : Option Instr :=
  match splitLine line.toList [] with
  | [m] => readBare (String.ofList m)
  | [m, x] =>
    if String.ofList m = "SENDBYTE" then (readByte x).map .sendbyte
    else if String.ofList m = "TEMP" then (readStrategy x).map Instr.temp
    else none
  | [m, x, y] =>
    if String.ofList m = "WRITEREG" then (readByte x).bind (fun a => (readByte y).map (.writereg a))
    else if String.ofList m = "READREGS" then (readByte x).bind (fun a => (readByte y).map (.readregs a))
    else if String.ofList m = "WRITE_FRAME" then
      (readOperand 128 x).bind (fun a => (readByte y).map (.writeFrame (BitVec.ofNat 7 a)))
    else if String.ofList m = "READ_FRAME" then (readByte x).bind (fun a => (readByte y).map (.readFrame a))
    else none
  | _ => none

end Sys2Proof
end

