-- ==== Sys2Proof/Machine/Schedule.lean ====
section
/-! DEFINITION. Callers and who moves: taking a caller's next operation from the port, going on with an operation in
progress, and the choice between the callers that can move (R3, R16, R61, R62, R205, R209). -/

namespace Sys2Proof.Machine

/-- Every caller, the one being served first. -/
def State.callers (s : State) : List Caller := s.caller :: s.others

/-- Serve the `k`-th caller: the rest of the state does not change. -/
def State.focus (s : State) (k : Nat) : State :=
  match s.callers[k]? with
  | some c => { s with caller := c, others := s.callers.eraseIdx k }
  | none => s

/-- A caller with nothing in progress and nothing issued. -/
def Caller.quiescent (c : Caller) : Bool := decide (c.seq = none) && c.port.isEmpty

/-- No other caller has anything in progress or issued. -/
def State.alone (s : State) : Bool := s.others.all Caller.quiescent

/-- Would a step leave the caller waiting? -/
def Effect.isWait : Effect → Bool
  | .wait => true
  | .done _ => false
  | .fault _ => false

/-- Can the caller being served move? A caller waiting in `lock()` or in `CLOSE` has no step (R62, R182). -/
def State.canMove (s : State) : Bool :=
  match s.caller.seq with
  | none => !s.caller.port.isEmpty
  | some q =>
    match q.next with
    | none => true
    | some m => !(s.perform m).isWait

/-- The places in `State.callers` of the callers that can move. -/
def State.candidates (s : State) : List Nat :=
  (List.range s.callers.length).filter (fun k => (s.focus k).canMove)

/-- The state with the caller that moves next being served; `none` where no caller can move. Where more than one can,
the choice is free (R61, R62, R209). -/
def State.choose (s : State) : Option State :=
  match s.candidates with
  | [] => none
  | [k] => some (s.focus k)
  | ks =>
    some (State.focus { s with turn := s.turn + 1 } (ks.getD (Config.schedule s.turn % ks.length) 0))

/-- The next step of the operation in progress of the caller being served, and no more. -/
def State.resume (s : State) (q : Seq) : Host.Outcome State Fault Refusal :=
  match q.next with
  | none => .fault .sequencerOverrun
  | some m =>
    match s.perform m with
    | .done t => .next t.advance
    | .wait => .next s
    | .fault f => .fault f

/-- An operation refused or accepted, with no step of it performed yet. -/
def State.begin (s : State) (i : Instr) : Host.Outcome State Fault Refusal :=
  match admission i s.life with
  | some reason => .next (s.refuse reason)
  | none => .next (s.accept i)

/-- Serve the caller being served. With an operation in progress, its next step. Else its next issued word: an
illegal or reserved one is refused with `IllegalCommand` (R93), whatever `LIFE` is; that its reason comes before the
lifecycle's (R183, R184), where R196 gives both and no order, is a DESIGN CHOICE (log 21). An operation is performed as one step where no other caller could
interleave with it (R27, decision D16), and is only accepted where one could, so that its steps interleave with the
others' (R61). Construction is always one step: there is no instance for another caller to call before it has
ended (R205, R223). DEDUCED (log 8). -/
def State.serve (whole : Instr → State → Host.Outcome State Fault Refusal) (s : State) :
    Host.Outcome State Fault Refusal :=
  match s.caller.seq with
  | some q => s.resume q
  | none =>
    match s.caller.port with
    | [] => .next s
    | w :: rest =>
      let u := { s with caller := { s.caller with port := rest } }
      match decode w with
      | .error _ => .next (u.refuse .illegalCommand)
      | .ok i => if s.alone || decide (i = .init) then whole i u else u.begin i

/-- One step of the machine: a caller that can move is served; where none can, nothing happens. -/
def State.stepWith (whole : Instr → State → Host.Outcome State Fault Refusal) (s : State) :
    Host.Outcome State Fault Refusal :=
  match s.choose with
  | none => .next s
  | some t => t.serve whole

/-- The caller being served issues one operation, and no other caller has anything issued or in progress: what it
takes for the next step to run that operation, and nothing else. -/
def State.issue (s : State) (w : PortWord) : State :=
  { s with
    caller := { s.caller with seq := none, port := [w] }
    others := s.others.map (fun c => { c with seq := none, port := [] }) }

end Sys2Proof.Machine
end

