-- ==== Sys2Proof/Machine/Step.lean ====
section
/-! DEFINITION. One step of the machine, and placing an instruction where the next step takes it. -/

namespace Sys2Proof.Machine

/-- One step. -/
def step (s : State) : Host.Outcome State Fault Refusal := s.stepWith exec

/-- The state with the instruction of that number issued at the command port, so that the next step runs it. -/
def State.withFetchWord (s : State) (nbits w : Nat) : State :=
  match PortWord.ofNumber nbits w with
  | some p => s.issue p
  | none => s

end Sys2Proof.Machine
end

