-- ==== Sys2Proof/Safety.lean ====
section
/-! DEFINITION. The terms claims use: when an operation may be issued, what an operation puts on the pins and takes
from them, the invariants of every run, and the named properties of the open parameters. -/

namespace Sys2Proof.Machine

/-! ### Preconditions -/

/-- The pins are configured as after `INIT` (R22). -/
abbrev State.configured (s : State) : Prop :=
  s.modeCs = .out ∧ s.modeClk = .out ∧ s.modeSdo = .out ∧ s.modeSdi = .input

/-- The instance is built and the caller being served has no operation in progress (R3, R183). -/
abbrev State.Ready (s : State) : Prop := s.life = .ready ∧ s.configured ∧ s.caller.seq = none

/-! ### What goes over the pins -/

/-- `send(v)` of R151: the 24 tokens of R84 and R121, written out bit by bit. -/
def sendTokens (v : Byte) : List Token :=
  [7, 6, 5, 4, 3, 2, 1, 0].flatMap (fun i => [.wr .clk .high, .wr .sdo (Level.ofBit (v.getLsbD i)), .wr .clk .low])

/-- The tokens of the bits of `recv` whose samples are the given levels (R85, R122). -/
def recvTokens (ls : List Level) : List Token :=
  ls.flatMap (fun l => [.wr .clk .high, .rd l, .wr .clk .low])

/-- The tokens of a write frame (R82). -/
def writeFrameTokens (address value : Byte) : List Token :=
  [.wr .cs .low] ++ sendTokens address ++ sendTokens value ++ [.wr .cs .high]

/-- The tokens of a read frame whose samples are the given levels (R83). -/
def readFrameTokens (address : Byte) (ls : List Level) : List Token :=
  [.wr .cs .low] ++ sendTokens address ++ recvTokens ls ++ [.wr .cs .high]

/-- The trace of one `ACQUIRE` whose 64 samples are the given levels (R151). -/
def acquisitionTokens (ls : List Level) : List Token :=
  writeFrameTokens 0x80 0xB2 ++ [.delay] ++ readFrameTokens 0x00 ls

/-- The trace as the slave sees it, without the callers' names (R14). -/
def State.tokens (s : State) : List Token := s.trace.map Event.token

/-- Pin events performed for the caller being served. -/
def State.events (s : State) (ts : List Token) : List Event := ts.map (Event.mk s.caller.id)

/-- The level of the `k`-th sample from now (R113, R203), where the environment has given `answers` and the run has
taken `samples` samples. -/
def levelFrom (answers : List Level) (samples k : Nat) : Level := (answers[k]?).getD (Config.oracle (samples + k))

/-- The levels of the next `n` samples. -/
def levelsFrom (answers : List Level) (samples n : Nat) : List Level := (List.range n).map (levelFrom answers samples)

/-- The byte of eight bits, the first one bit 7 (R122). -/
def byteOfBits (b7 b6 b5 b4 b3 b2 b1 b0 : Bool) : Byte := BitVec.ofBoolListBE [b7, b6, b5, b4, b3, b2, b1, b0]

/-- The `k`-th byte received from now: eight levels, the first one bit 7 (R122). -/
def byteFrom (answers : List Level) (samples k : Nat) : Byte :=
  let bit := fun i => (levelFrom answers samples (8 * k + i)).toBit
  byteOfBits (bit 0) (bit 1) (bit 2) (bit 3) (bit 4) (bit 5) (bit 6) (bit 7)

/-- The next `n` bytes received. -/
def bytesFrom (answers : List Level) (samples n : Nat) : List Byte := (List.range n).map (byteFrom answers samples)

/-- The levels of the next `n` samples. -/
def State.levels (s : State) (n : Nat) : List Level := levelsFrom s.answers s.samples n

/-- The `k`-th byte received from now. -/
def State.byteIn (s : State) (k : Nat) : Byte := byteFrom s.answers s.samples k

/-- The next `n` bytes received. -/
def State.bytesIn (s : State) (n : Nat) : List Byte := bytesFrom s.answers s.samples n

/-- The reading of the bank received next (R146 to R148): 8 bytes from the register at index 0 on (R86). -/
def State.readingIn (s : State) : Reading :=
  ⟨resistanceOf float (((s.byteIn 1).toNat * 256 + (s.byteIn 2).toNat) / 2), s.byteIn 7⟩

/-! ### Invariants -/

/-- Is the operation an acquisition (R160)? -/
def acquires : Instr → Bool
  | .acquire => true
  | .tempExact => true
  | .tempPoly3 => true
  | .tempPoly4 => true
  | .tempPoly5 => true
  | _ => false

/-- The caller is between its `lock()` and its `unlock()` (R61). -/
def Caller.inCritical (c : Caller) : Bool :=
  match c.seq with
  | none => false
  | some q => q.past.contains .lock && !q.past.contains .unlock

/-- No two callers have one name (R205). -/
abbrev State.namesDistinct (s : State) : Prop := (s.callers.map Caller.id).Nodup

/-- `LOCK` is held by exactly the caller in its critical section (R28, R61 to R63). -/
abbrev State.lockAgrees (s : State) : Prop :=
  match s.lock with
  | .free => ∀ c ∈ s.callers, c.inCritical = false
  | .held h => (∃ c ∈ s.callers, c.id = h ∧ c.inCritical = true) ∧
      ∀ c ∈ s.callers, c.inCritical = true → c.id = h

/-- What `LIFE` says of the pins and of the callers (R21, R22, R40, R182, R183). -/
abbrev State.lifeAgrees (s : State) : Prop :=
  match s.life with
  | .unbuilt => ∀ c ∈ s.callers, c.seq = none
  | .ready => s.configured ∧ s.pinCs.isSome ∧ s.pinClk.isSome ∧ s.pinSdo.isSome
  | .closed => (s.configured ∧ s.pinCs.isSome ∧ s.pinClk.isSome ∧ s.pinSdo.isSome) ∧
      ∀ c ∈ s.callers, c.busy = false

/-- A caller's sequencer position lies within its operation, and its locals are what the steps done have left: as
many bytes received as kept, a bank of exactly 8 entries once it is read (R25, R39), a reading once it is decoded. -/
abbrev Caller.placed (c : Caller) : Prop :=
  match c.seq with
  | none => True
  | some q =>
    q.op ≠ .init ∧ q.pos < (steps q.op).length ∧ c.out.length = q.past.count .keep ∧
      (q.past.contains .bank = true → c.bank.length = 8) ∧ (q.past.contains .decode = true → c.reading.isSome = true)

/-- The invariant of every run (R39). -/
abbrev Safety.Inv (s : State) : Prop :=
  s.namesDistinct ∧ s.lockAgrees ∧ s.lifeAgrees ∧ ∀ c ∈ s.callers, c.placed

/-- The steps a caller's operation in progress still has. -/
def Caller.rest (c : Caller) : List Micro :=
  match c.seq with
  | none => []
  | some q => (steps q.op).drop q.pos

/-- The caller is inside a frame of its own: the next chip-select write it will perform deasserts. -/
def Caller.holdsCs (c : Caller) : Bool :=
  (c.rest.find? (fun m => m == .wr .cs .low || m == .wr .cs .high)) == some (.wr .cs .high)

/-- The caller is inside a clock pulse of its own: the next clock write it will perform drives the clock low. -/
def Caller.holdsClk (c : Caller) : Bool :=
  (c.rest.find? (fun m => m == .wr .clk .low || m == .wr .clk .high)) == some (.wr .clk .low)

/-- The bus is idle but for a caller that is inside a frame, or inside a clock pulse (R21, R123, R228). -/
abbrev Safety.BusIdle (s : State) : Prop :=
  (s.pinCs = some .high ∨ ∃ c ∈ s.callers, c.holdsCs = true) ∧
    (s.pinClk = some .low ∨ ∃ c ∈ s.callers, c.holdsClk = true)

/-- An operation that serialises itself: an acquisition, or `CLOSE` (R68, R225). -/
def serialised (i : Instr) : Bool := acquires i || i == .close

/-- The caller issues only `ACQUIRE`, `TEMP_*` and `CLOSE` (R68). -/
abbrev Caller.onlyAcquires (c : Caller) : Prop :=
  (∀ w ∈ c.port, ∀ i, decode w = .ok i → serialised i = true) ∧ ∀ q, c.seq = some q → serialised q.op = true

/-- Since the trace was `before`, it has grown by whole acquisitions, and by the part the holder of `LOCK` has
performed of its own (R61, R68). -/
def Safety.Serial (before : List Token) (s : State) : Prop :=
  ∃ whole : List (List Level), (∀ ls ∈ whole, ls.length = 64) ∧
    match s.lock with
    | .free => s.tokens = before ++ (whole.map acquisitionTokens).flatten
    | .held h => ∃ c ∈ s.callers, c.id = h ∧ ∃ q, c.seq = some q ∧ ∃ ls : List Level, ls.length = 64 ∧
        s.tokens = before ++ (whole.map acquisitionTokens).flatten ++
          (acquisitionTokens ls).take (q.past.countP Micro.isPinEvent)

/-- A clean run: no operation refused (R196) and no `DomainFault` (R197). -/
abbrev Safety.Clean (s : State) : Prop := s.refusals = [] ∧ s.domainFault = false

/-- R62, R209, decision D11: on the run from `s`, a caller that can move infinitely often is served infinitely often.
A premise a claim that a run ends may take; nothing here asserts it (log 6). -/
def Safety.Fair (s : State) : Prop :=
  ∀ id : Nat,
    (∀ n, ∃ m ≥ n, ∃ t, Host.Core.run Sys2Proof.core m s = .next t ∧
      ∃ k ∈ t.candidates, (t.focus k).caller.id = id) →
    ∀ n, ∃ m ≥ n, ∃ t u, Host.Core.run Sys2Proof.core m s = .next t ∧ t.choose = some u ∧ u.caller.id = id

/-! ### Named properties of the open parameters (R170, R172, R223) -/

/-- R223: `PINMAP` binds each of the four roles to a distinct physical pin. -/
def Safety.PinMapDistinct : Prop := Function.Injective Config.pinMap

/-- The value of a finite binary64 datum. -/
def Binary64.value (x : Binary64) : ℚ := (Binary64.signedUnits x : ℚ) / 2 ^ 1074

/-- R172: the reference Callendar-Van Dusen resistance at a temperature. PRESUMED (log 10): the spec takes the forward
equation and its sub-zero coefficient from general knowledge. -/
def cvdForward (t : ℚ) : ℚ :=
  100 * (1 + 390830 / 10 ^ 8 * t - 577500 / 10 ^ 12 * t ^ 2 +
    if t < 0 then -418301 / 10 ^ 17 * (t - 100) * t ^ 3 else 0)

/-- R170: the stated maximum fitting error of a polynomial strategy, in degrees Celsius. -/
def statedMaxError : Strategy → Option ℚ
  | .exact => none
  | .poly3 => some (98 / 100)
  | .poly4 => some (39 / 100)
  | .poly5 => some (13 / 100)

/-- The error of a strategy against the reference temperature `t`, at the resistance nearest to `cvdForward t`. -/
def strategyError (k : Strategy) (t : ℚ) : Option ℚ :=
  (conv k (Binary64.ofRat (decide (cvdForward t < 0)) (cvdForward t).num.natAbs (cvdForward t).den)).map
    (fun x => |Binary64.value x - t|)

/-- R170, as a premise a claim may take: over [-200, 660] degrees Celsius a polynomial strategy's error is at most the
stated one. Nothing here asserts it: the coefficients are open (decision D14). -/
def Safety.FitsAsStated (k : Strategy) : Prop :=
  ∀ t : ℚ, -200 ≤ t → t ≤ 660 → ∀ e b, strategyError k t = some e → statedMaxError k = some b → e ≤ b

/-- R172, as a premise a claim may take, for a sample of temperatures. -/
def Safety.OrderedByDegree (sample : List ℚ) : Prop :=
  ∀ t ∈ sample, ∀ e3 e4 e5, strategyError .poly3 t = some e3 → strategyError .poly4 t = some e4 →
    strategyError .poly5 t = some e5 → e5 ≤ e4 ∧ e4 < e3

end Sys2Proof.Machine
end

