-- ==== Sys2Proof/Certificates/Slice0/Obligations.lean ====
section
/-! DEFINITION. The statements for the provers. Each docstring names the rules of spec/ it formalises, or says that it is
derived. -/

namespace Sys2Proof.Machine

/-! ### Terms of the statements -/

/-- What an operation leaves where the lifecycle refuses it: the run's mark, and nothing else (R196). -/
def refusedState (s : State) (r : RefuseReason) : State :=
  { s with refusals := s.refusals ++ [⟨s.caller.id, r⟩] }

/-- The caller after an operation that returned `r`: no operation in progress, none of its locals, and the value
returned (R25, R92, R150). -/
def returned (c : Caller) (r : Result) : Caller :=
  { c with seq := none, out := [], bank := [], reading := none, results := c.results ++ [r] }

/-- What every acquisition leaves, whatever it then returns: the pins idle, 64 samples taken, the trace of R151, one
counter one higher, `LOCK` free, and `ACC` the last byte received (R140 to R151). -/
def acquiredState (s : State) (c : Caller) : State :=
  { s with
    pinCs := some .high
    pinClk := some .low
    pinSdo := some .low
    answers := s.answers.drop 64
    samples := s.samples + 64
    trace := s.trace ++ s.events (acquisitionTokens (s.levels 64))
    good := if s.byteIn 7 = 0 then s.good + 1 else s.good
    bad := if s.byteIn 7 = 0 then s.bad else s.bad + 1
    lock := .free
    caller := { c with acc := s.byteIn 7 } }

/-- The state in which the caller waits with an operation not yet begun: nothing else changes (R62, R182). -/
def waitingState (s : State) (i : Instr) : State :=
  { s with caller := { s.caller with seq := some ⟨i, 0⟩, out := [], bank := [], reading := none } }

/-- The command word of a caller's next operation taken from its port. -/
def taken (s : State) (rest : List PortWord) : State := { s with caller := { s.caller with port := rest } }

/-- The bits driven on data-out, in time order. -/
def sdoBits (ts : List Token) : List Bool :=
  ts.filterMap (fun t => match t with
    | .wr .sdo l => some l.toBit
    | _ => none)

/-- `n` acquisitions by the caller being served, one after another. -/
def acquireTimes : Nat → State → Host.Outcome State Fault Refusal
  | 0, s => .next s
  | n + 1, s =>
    match exec .acquire s with
    | .next t => acquireTimes n t
    | .fault f => .fault f
    | .refused r => .refused r

/-- The number of pin events of an operation (R234). -/
def pinEventCount : Instr → Nat
  | .init => 7
  | .sendbyte _ => 24
  | .recvbyte => 24
  | .writereg _ _ => 50
  | .readregs _ count => 26 + 24 * count.toNat
  | .acquire => 269
  | .tempExact => 269
  | .tempPoly3 => 269
  | .tempPoly4 => 269
  | .tempPoly5 => 269
  | .close => 0
  | .writeFrame _ _ => 50
  | .readFrame _ count => 26 + 24 * count.toNat

open Classical in
/-- `FLOAT` over the reals: no rounding. -/
noncomputable def realFloat : Numerics ℝ where
  ofRat := fun negative num den => if negative then -((num : ℝ) / den) else (num : ℝ) / den
  add := fun x y => x + y
  sub := fun x y => x - y
  mul := fun x y => x * y
  div := fun x y => x / y
  sqrt := Real.sqrt
  neg := fun x => -x
  lt := fun x y => decide (x < y)

/-- A datum is a nearest one to `q`, and the one with an even last bit where two are nearest. -/
def NearestEven (r : Binary64) (q : ℝ) : Prop :=
  ∀ z : Binary64, Binary64.isFinite z = true →
    |(Binary64.value r : ℝ) - q| ≤ |(Binary64.value z : ℝ) - q| ∧
    (|(Binary64.value r : ℝ) - q| = |(Binary64.value z : ℝ) - q| → Binary64.value z ≠ Binary64.value r →
      r.toNat % 2 = 0)

end Sys2Proof.Machine

open Sys2Proof Sys2Proof.Machine

/-! ### Encoding -/

/-- Tier 3. Every well-formed instruction is read back from its encoding (R82, R83, R90). Derived. -/
def Obligations.DecodeOfEncode : Prop :=
  ∀ i : Instr, i.wf = true → decode (encode i) = .ok i

/-- Each word has one meaning: a port word that decodes is the encoding of what it decodes to, which is well formed.
Derived from R82, R83, R90, R93. -/
def Obligations.EncodeOfDecode : Prop :=
  ∀ w i, decode w = .ok i → encode i = w ∧ i.wf = true

/-- R93: a command word is legal exactly when it matches a row of the opcode table. R98: `match` and `mask`. No two rows
match one word. Derived. -/
def Obligations.CommandWordsAreTheTableRows : Prop :=
  (∀ w : BitVec 24, (∃ i, decodeCmd w = .ok i) ↔ ∃ r ∈ cmdTable, r.matches w = true) ∧
  (∀ w : BitVec 24, cmdTable.Pairwise (fun r q => ¬(r.matches w = true ∧ q.matches w = true))) ∧
  ∀ (w : BitVec 24) (i : Instr), decodeCmd w = .ok i → ∃ r ∈ cmdTable, r.matches w = true ∧ r.mnemonic = i.mnemonic

/-- R90, R93: words of the operation map written out, and the illegal and reserved words of vector V10 (the encoding is
the spec's decision D2, the refusal its decision D19). Derived. -/
def Obligations.CommandWordsOfTheMap : Prop :=
  decode (.cmd 0x010000) = .ok .init ∧ decode (.cmd 0x10A500) = .ok (.sendbyte 0xA5) ∧
  decode (.cmd 0x110000) = .ok .recvbyte ∧ decode (.cmd 0x1200B2) = .ok (.writereg 0x00 0xB2) ∧
  decode (.cmd 0x130008) = .ok (.readregs 0x00 8) ∧ decode (.cmd 0x200000) = .ok .acquire ∧
  decode (.cmd 0x300000) = .ok .tempExact ∧ decode (.cmd 0x310000) = .ok .tempPoly3 ∧
  decode (.cmd 0x320000) = .ok .tempPoly4 ∧ decode (.cmd 0x330000) = .ok .tempPoly5 ∧
  decode (.cmd 0x7F0000) = .ok .close ∧
  decode (.cmd 0x000000) = .error (.illegalOp 0x00) ∧ decode (.cmd 0x340000) = .error (.illegalOp 0x34) ∧
  decode (.cmd 0x110001) = .error (.reservedOperand 0x11) ∧
  decode (.cmd 0x10A501) = .error (.reservedOperand 0x10) ∧
  decode (.cmd 0x200100) = .error (.reservedOperand 0x20)

/-- Derived from R82: the 16 bits `WRITEREG` drives on data-out between chip-select low and high are, in time order,
the write frame of the register's index and the value, and that frame decodes to it. -/
def Obligations.WriteregSendsTheWriteFrame : Prop :=
  ∀ (s : State) (addr value : Byte), s.Ready →
    ∃ t w, exec (.writereg addr value) s = .next t ∧
      decode (.frameW w) = .ok (.writeFrame (addr.extractLsb' 0 7) value) ∧
      sdoBits (t.tokens.drop s.tokens.length) = (List.range 16).map (fun k => w.getLsbD (15 - k))

/-! ### Step -/

/-- A step runs the decoded instruction: where the served caller has no operation in progress, its next issued word
decodes, and no other caller could interleave, the step is `exec` of it on the state with the word taken from the port.
Derived from R3, R27, R66: that such an operation is performed as one step is the model's choice (log 4), which R27 and
the spec's decision D16 permit, and that a bare frame is an instruction a caller can issue is its choice too (log 3). -/
def Obligations.StepRunsTheDecodedInstruction : Prop :=
  ∀ (s : State) (w : PortWord) (rest : List PortWord) (i : Instr),
    s.caller.seq = none → s.caller.port = w :: rest → decode w = .ok i → s.alone = true →
      step s = exec i (taken s rest)

/-- A word placed by `withFetchWord` is run by the very next step, and nothing remains at the port. Derived from R3:
`withFetchWord` is the model's own stand-in for a caller that issues the word (log 7), the words of 16 and of 8 bits are
bare frames, which the model lets a caller issue (log 3), and the one step is its choice (log 4). -/
def Obligations.StepRunsThePlacedWord : Prop :=
  ∀ (s : State) (nbits w : Nat) (i : Instr), decodeTableWord nbits w = some i →
    step (s.withFetchWord nbits w) = exec i (taken (s.withFetchWord nbits w) [])

/-- R93, R196, the spec's decision D19: an illegal or reserved word is refused with `IllegalCommand`: no state changes
but the run's mark and the port the word is taken from, and no pin event happens. `u` is the state with the caller
served next being served, alone or beside others. That a bare frame with a wrong first bit is refused so too is the
model's choice (log 3), and so is the reason where `LIFE` gives another one (log 21). Derived. -/
def Obligations.IllegalWordIsRefused : Prop :=
  ∀ (s u : State) (w : PortWord) (rest : List PortWord) (e : DecodeError), s.choose = some u →
    u.caller.seq = none → u.caller.port = w :: rest → decode w = .error e →
      step s = .next (refusedState (taken u rest) .illegalCommand)

/-- R61, R183: the step of a newly issued word while another caller is at work. The operation is only accepted, its
steps following one by one, or it is refused by the lifecycle; `INIT` is performed whole. `u` is the state with the
caller served next being served. Derived: that an accepted operation begins with a step of its own is the model's
choice (log 4; R27, the spec's decision D16), and so is the whole `INIT` (log 8). -/
def Obligations.ContendedWordIsAcceptedOrRefused : Prop :=
  ∀ (s u : State) (w : PortWord) (rest : List PortWord) (i : Instr), s.choose = some u → u.alone = false →
    u.caller.seq = none → u.caller.port = w :: rest → decode w = .ok i →
      (i ≠ .init → u.life = .ready → step s = .next (waitingState (taken u rest) i)) ∧
      (i ≠ .init → u.life = .unbuilt → step s = .next (refusedState (taken u rest) .notReady)) ∧
      (i ≠ .init → u.life = .closed → step s = .next (refusedState (taken u rest) .closed)) ∧
      (i = .init → step s = exec .init (taken u rest))

/-- R27, decision D16: performing an operation as one step (log 4) is performing its steps one by one. From the state
in which the operation has just been accepted and no other caller is at work, as many steps of the machine as the
operation has lead to what `exec` gives. `ACQUIRE`, the `TEMP_*` and `CLOSE` are taken with `LOCK` free, since a waiting
caller has no step; construction is always one step (log 8), so `INIT` is left out. Derived. -/
def Obligations.OneStepIsManyPinSteps : Prop :=
  ∀ (s : State) (i : Instr), s.Ready → s.alone = true → s.lock = .free → i ≠ .init →
    Host.Core.run Sys2Proof.core (steps i).length (waitingState s i) = exec i s

/-- R61: where more than one caller is at work a step performs at most one pin event, unless the served caller's next
word is `INIT`. Derived: a step that does more is an operation performed as a whole, whose caller had none in progress
and was alone (log 4), or the construction, whose seven events the model performs in one step also where another
caller's word waits (log 8). -/
def Obligations.ContendedStepIsAtMostOnePinEvent : Prop :=
  ∀ s t u : State, step s = .next t → s.choose = some u →
    (u.caller.seq.isSome = true ∨
      (u.alone = false ∧ ∀ w rest, u.caller.port = w :: rest → decode w ≠ .ok .init)) →
      t.trace = s.trace ∨ ∃ e, t.trace = s.trace ++ [e]

/-! ### Reset and lifecycle -/

/-- R221, R40: the state after reset is the second column of R40, with no operation in progress. That the counters are 0
and the lock free is the spec's decision D7; `BANK` has no entries. (`ACC`, which has no value there, holds a byte the
model chose, log 1; nothing is said of it.) Derived. -/
def Obligations.ResetLeavesTheSecondColumn : Prop :=
  State.reset.pinCs = some .high ∧ State.reset.pinClk = some .low ∧ State.reset.pinSdo = some .low ∧
  State.reset.modeCs = .out ∧ State.reset.modeClk = .out ∧ State.reset.modeSdo = .out ∧
  State.reset.modeSdi = .input ∧ State.reset.good = 0 ∧ State.reset.bad = 0 ∧ State.reset.lock = .free ∧
  State.reset.life = .ready ∧ (∀ c ∈ State.reset.callers, c.seq = none ∧ c.bank = [])

/-- R180: `INIT` before construction sets the modes, drives the idle levels, zeroes the counters, frees `LOCK` and
makes the instance ready, in seven pin events. Their order is the spec's decision D8 (R181), and that the counters
start at 0 and the lock free is its decision D7. Derived. -/
def Obligations.InitBuildsTheInstance : Prop :=
  ∀ s : State, s.life = .unbuilt → s.caller.seq = none →
    exec .init s = .next { s with
      modeCs := .out
      modeClk := .out
      modeSdo := .out
      modeSdi := .input
      pinCs := some .high
      pinClk := some .low
      pinSdo := some .low
      good := 0
      bad := 0
      lock := .free
      life := .ready
      trace := s.trace ++ s.events
        [.modeOut .cs, .modeOut .clk, .modeOut .sdo, .modeIn .sdi, .wr .cs .high, .wr .clk .low, .wr .sdo .low]
      caller := returned s.caller .done }

/-- R220: reset is construction: `INIT` on the machine before it leaves `State.reset`. The one caller and the
placeholders before construction are the model's choice (log 1); the order of the setup events and the counters at 0
are the spec's decisions D8 and D7 (log 15). Derived. -/
def Obligations.InitOfUnbuiltIsReset : Prop := exec .init State.unbuilt = .next State.reset

/-- R183, the spec's decision D13: before construction every operation but `INIT` is refused with `NotReady`, and after
`CLOSE` every operation but `INIT` with `Closed`, changing no state but the run's mark and producing no pin event.
Derived. -/
def Obligations.OperationsAreRefusedOutsideReady : Prop :=
  ∀ (s : State) (i : Instr), s.caller.seq = none → i ≠ .init →
    (s.life = .unbuilt → exec i s = .next (refusedState s .notReady)) ∧
    (s.life = .closed → exec i s = .next (refusedState s .closed))

/-- R184, the spec's decision D13: a second `INIT` is refused with `AlreadyBuilt`, and changes no state but the run's
mark. Derived. -/
def Obligations.SecondInitIsRefused : Prop :=
  ∀ s : State, s.caller.seq = none → (s.life = .ready ∨ s.life = .closed) →
    exec .init s = .next (refusedState s .alreadyBuilt)

/-- R182, the spec's decision D24: `CLOSE` on a ready instance with `LOCK` free and no operation of another caller in
progress returns `(GOOD, BAD)` and closes the instance, with no pin event and nothing else changed. That another caller
waiting in its own `CLOSE` has no operation in progress is the model's choice (log 9, `Caller.busy`). Derived. -/
def Obligations.CloseReportsTheCounters : Prop :=
  ∀ s : State, s.life = .ready → s.caller.seq = none → s.lock = .free → (∀ c ∈ s.others, c.busy = false) →
    exec .close s = .next { s with
      life := .closed
      caller := returned s.caller (.counters s.good s.bad) }

/-- R182: `CLOSE` waits while `LOCK` is held, or while an operation of another caller that is not itself a `CLOSE` is
in progress: nothing changes but that the caller waits in it. (That a waiting `CLOSE` keeps no other one waiting is the
model's choice, log 9.) Derived. -/
def Obligations.CloseWaits : Prop :=
  ∀ s : State, s.life = .ready → s.caller.seq = none →
    (s.lock ≠ .free ∨ ∃ c ∈ s.others, ∃ q, c.seq = some q ∧ q.op ≠ .close) →
      exec .close s = .next (waitingState s .close)

/-! ### The Bit-Link Layer -/

/-- R121, R84: `SENDBYTE byte` is the command word `op = 0x10`, `a = byte`, `b = 0` (decision D2), and on a ready
instance is the 24 pin events of the eight bits, most significant first: clock high, data, clock low; `pin[CLK] = LOW`
and `pin[SDO] = byte[0]` after, and nothing else changes but that the caller has its completion. Derived. -/
def Obligations.SendbyteSendsMsbFirst : Prop :=
  ∀ (s : State) (byte : Byte), decode (.cmd (cmdWord 0x10 byte 0)) = .ok (.sendbyte byte) ∧
    (s.Ready → exec (.sendbyte byte) s = .next { s with
      pinClk := some .low
      pinSdo := some (Level.ofBit (byte.getLsbD 0))
      trace := s.trace ++ s.events (sendTokens byte)
      caller := returned s.caller .done })

/-- R122, R85: `RECVBYTE` is the command word `op = 0x11`, `a = b = 0` (decision D2), and on a ready instance is the 24
pin events of eight bits: clock high, sample, clock low; it returns the byte of the eight levels, the first one bit 7,
and leaves it in `ACC`; it drives neither data-out nor chip-select, and nothing else changes. Derived. -/
def Obligations.RecvbyteAssemblesMsbFirst : Prop :=
  ∀ s : State, decode (.cmd (cmdWord 0x11 0 0)) = .ok .recvbyte ∧
    (s.Ready → exec .recvbyte s = .next { s with
      pinClk := some .low
      answers := s.answers.drop 8
      samples := s.samples + 8
      trace := s.trace ++ s.events (recvTokens (s.levels 8))
      caller := { returned s.caller (.byte (s.byteIn 0)) with acc := s.byteIn 0 } })

/-- R124: `WRITEREG addr, value` is the command word `op = 0x12`, `a = addr`, `b = value` (decision D2), and on a ready
instance is chip-select low, the byte `0x80 | addr`, the byte `value`, chip-select high: 50 pin events, all writes;
`pin[CS] = HIGH`, `pin[CLK] = LOW`, `pin[SDO] = value[0]` after, and nothing else changes. Derived. -/
def Obligations.WriteregSendsOneFrame : Prop :=
  ∀ (s : State) (addr value : Byte), decode (.cmd (cmdWord 0x12 addr value)) = .ok (.writereg addr value) ∧
    (s.Ready → exec (.writereg addr value) s = .next { s with
      pinCs := some .high
      pinClk := some .low
      pinSdo := some (Level.ofBit (value.getLsbD 0))
      trace := s.trace ++ s.events
        ([.wr .cs .low] ++ sendTokens (0x80 ||| addr) ++ sendTokens value ++ [.wr .cs .high])
      caller := returned s.caller .done })

/-- R125 (1): `WRITEREG` of an address with bit 7 set is the one without. Derived. -/
def Obligations.WriteregIgnoresAddressBitSeven : Prop :=
  ∀ (s : State) (addr value : Byte), s.Ready →
    exec (.writereg (0x80 ||| addr) value) s = exec (.writereg addr value) s

/-- R126: `READREGS startAddr, count` sends the address byte raw, takes `8 * count` samples and returns `count` bytes
in request order, for every address and every count; `pin[SDO]` stays at the address byte's last bit. That `count = 0`
sends the address and returns nothing is the spec's decision D12. Derived. -/
def Obligations.ReadregsReturnsInRequestOrder : Prop :=
  ∀ (s : State) (startAddr count : Byte), s.Ready →
    exec (.readregs startAddr count) s = .next { s with
      pinCs := some .high
      pinClk := some .low
      pinSdo := some (Level.ofBit (startAddr.getLsbD 0))
      answers := s.answers.drop (8 * count.toNat)
      samples := s.samples + 8 * count.toNat
      trace := s.trace ++ s.events
        ([.wr .cs .low] ++ sendTokens startAddr ++ recvTokens (s.levels (8 * count.toNat)) ++ [.wr .cs .high])
      caller := { returned s.caller (.bytes (s.bytesIn count.toNat)) with
        acc := if count = 0 then s.caller.acc else s.byteIn (count.toNat - 1) } }

/-- R82: the table's write frame is the 16 bits `1`, index, data byte between chip-select low and high. That a bare
frame returns a completion is the model's choice (log 3). Derived. -/
def Obligations.WriteFrameIsSixteenBits : Prop :=
  ∀ (s : State) (idx : BitVec 7) (value : Byte), s.Ready →
    exec (.writeFrame idx value) s = .next { s with
      pinCs := some .high
      pinClk := some .low
      pinSdo := some (Level.ofBit (value.getLsbD 0))
      trace := s.trace ++ s.events
        ([.wr .cs .low] ++ sendTokens ((1 : BitVec 1) ++ idx) ++ sendTokens value ++ [.wr .cs .high])
      caller := returned s.caller .done }

/-- R83: the table's read frame is 8 bits out, then `8 * count` bits in, between chip-select low and high; group `k` is
element `k` of what is returned. A frame whose first bit is 1 is performed all the same (R94). That a bare frame
returns the bytes is the model's choice (log 3). Derived. -/
def Obligations.ReadFrameIsEightBitsOutThenBytesIn : Prop :=
  ∀ (s : State) (startAddr count : Byte), s.Ready →
    exec (.readFrame startAddr count) s = .next { s with
      pinCs := some .high
      pinClk := some .low
      pinSdo := some (Level.ofBit (startAddr.getLsbD 0))
      answers := s.answers.drop (8 * count.toNat)
      samples := s.samples + 8 * count.toNat
      trace := s.trace ++ s.events
        ([.wr .cs .low] ++ sendTokens startAddr ++ recvTokens (s.levels (8 * count.toNat)) ++ [.wr .cs .high])
      caller := { returned s.caller (.bytes (s.bytesIn count.toNat)) with
        acc := if count = 0 then s.caller.acc else s.byteIn (count.toNat - 1) } }

/-- R122: in every operation a sample stands between driving the clock high and driving it low. Derived. -/
def Obligations.SamplesStandInTheHighPhase : Prop :=
  ∀ (i : Instr) (k : Nat), (steps i)[k]? = some .sample →
    0 < k ∧ (steps i)[k - 1]? = some (.wr .clk .high) ∧ (steps i)[k + 1]? = some (.wr .clk .low)

/-- R234: the cost of every operation in pin events; a bare frame costs what the operation that emits it does (log 3),
and the 269 of an acquisition rest on its count 8 (decision D6, log 16). Derived. -/
def Obligations.PinEventCosts : Prop :=
  ∀ i : Instr, (steps i).countP Micro.isPinEvent = pinEventCount i

/-- R110 to R114: the pin primitives, each with its one effect, its token, and nothing else changed: the mode settings,
`WR` under its precondition and an event even where the level does not change, `RD` of the level present on data-in,
with the shift of it into `ACC` that is R122's, and `DELAY`. Derived. -/
def Obligations.PinPrimitives : Prop :=
  ∀ s : State,
    (∀ p, s.modeOut p = { s with
      modeCs := if p = .cs then .out else s.modeCs
      modeClk := if p = .clk then .out else s.modeClk
      modeSdo := if p = .sdo then .out else s.modeSdo
      modeSdi := if p = .sdi then .out else s.modeSdi
      trace := s.trace ++ s.events [.modeOut p] }) ∧
    (∀ p, s.modeIn p = { s with
      modeCs := if p = .cs then .input else s.modeCs
      modeClk := if p = .clk then .input else s.modeClk
      modeSdo := if p = .sdo then .input else s.modeSdo
      modeSdi := if p = .sdi then .input else s.modeSdi
      trace := s.trace ++ s.events [.modeIn p] }) ∧
    (∀ p l, s.mode p.role = .out → s.wr p l = .done { s with
      pinCs := if p = .cs then some l else s.pinCs
      pinClk := if p = .clk then some l else s.pinClk
      pinSdo := if p = .sdo then some l else s.pinSdo
      trace := s.trace ++ s.events [.wr p l] }) ∧
    (s.modeSdi = .input → s.sample = .done { s with
      answers := s.answers.tail
      samples := s.samples + 1
      trace := s.trace ++ s.events [.rd (levelFrom s.answers s.samples 0)]
      caller := { s.caller with
        acc := (s.caller.acc <<< 1) ||| (if (levelFrom s.answers s.samples 0).toBit then 1 else 0) } }) ∧
    s.delay = { s with trace := s.trace ++ s.events [.delay] }

/-! ### The lock -/

/-- R62, R63: `lock()` is enabled only when `LOCK = FREE` and then holds it for the caller; `unlock()` by the holder
frees it; neither is a pin event. Derived. -/
def Obligations.LockAndUnlock : Prop :=
  ∀ s : State,
    (s.lock = .free → s.takeLock = .done { s with lock := .held s.caller.id }) ∧
    (∀ d, s.lock = .held d → s.takeLock = .wait) ∧
    (s.lock = .held s.caller.id → s.releaseLock = .done { s with lock := .free })

/-- R62, R141: an acquisition begun while `LOCK` is held by another caller waits in `lock()`: no pin event happens and
nothing changes but that the caller waits. Derived. -/
def Obligations.AcquisitionWaitsForTheLock : Prop :=
  ∀ (s : State) (i : Instr) (d : Nat), s.Ready → acquires i = true → s.lock = .held d →
    exec i s = .next (waitingState s i)

/-! ### The acquisition -/

/-- R140 to R151: `ACQUIRE` with `LOCK` free: the 269 events of R151, the reading of the eight bytes received, one
counter one higher, `LOCK` free again, the pins idle, and nothing else changed (numerics: decision D4). The trigger byte
0xB2 and the read's address 0x00 and count 8 are the spec's decisions D5 and D6 (log 16). Derived. -/
def Obligations.AcquireReturnsTheReading : Prop :=
  ∀ s : State, s.Ready → s.lock = .free →
    exec .acquire s = .next (acquiredState s (returned s.caller (.reading
      ⟨resistanceOf float (((s.byteIn 1).toNat * 256 + (s.byteIn 2).toNat) / 2), s.byteIn 7⟩)))

/-- R146: the code of `MSB = BANK[1]` and `LSB = BANK[2]` is their 16-bit value shifted right by one, below 32768; it is
the code the decode of the bank converts, and bit 0 of `BANK[2]` has no effect on any result. -/
def Obligations.CodeIsTheShiftedPair : Prop :=
  ∀ b0 b1 b2 b3 b4 b5 b6 b7 : Byte,
    (adcCode b1 b2).toNat = (b1.toNat * 256 + b2.toNat) / 2 ∧ (adcCode b1 b2).toNat < 32768 ∧
    decodeBank [b0, b1, b2, b3, b4, b5, b6, b7] = some ⟨resistanceOf float (adcCode b1 b2).toNat, b7⟩ ∧
    decodeBank [b0, b1, b2 ^^^ 1, b3, b4, b5, b6, b7] = decodeBank [b0, b1, b2, b3, b4, b5, b6, b7]

/-- R147, under decision D4: in binary64 the resistance of every code is exact: finite, not negative, and as a rational
number `code * 215 / 16384`. Derived. -/
def Obligations.ResistanceIsExact : Prop :=
  ∀ code : Nat, code < 32768 →
    Binary64.isFinite (resistanceOf float code) = true ∧ Binary64.sign (resistanceOf float code) = false ∧
    Binary64.value (resistanceOf float code) = (code : ℚ) * 215 / 16384

/-- R148, R88: the status is `BANK[7]`, all eight bits, returned whatever it is; its six flags are its bits 7 to 2, and
bits 1 and 0 name nothing. R191, R149: a cause is reported exactly when its flag is set, and a read is good exactly when
the whole byte is zero. -/
def Obligations.StatusFlagsAndGood : Prop :=
  ∀ st : Byte,
    (∀ b0 b1 b2 b3 b4 b5 b6 : Byte, ∃ ohms, decodeBank [b0, b1, b2, b3, b4, b5, b6, st] = some ⟨ohms, st⟩) ∧
    ((faultFlags st).high = st.getLsbD 7 ∧ (faultFlags st).low = st.getLsbD 6 ∧
      (faultFlags st).refinHi = st.getLsbD 5 ∧ (faultFlags st).refinLo = st.getLsbD 4 ∧
      (faultFlags st).rtdinLo = st.getLsbD 3 ∧ (faultFlags st).ovuv = st.getLsbD 2) ∧
    (∀ x : Byte, faultFlags (st ^^^ (x &&& 0x03)) = faultFlags st) ∧
    ((.highThresholdOpenCable ∈ causes st ↔ (faultFlags st).high = true) ∧
      (.lowThresholdShortCable ∈ causes st ↔ (faultFlags st).low = true) ∧
      (.refinHigh ∈ causes st ↔ (faultFlags st).refinHi = true) ∧
      (.refinLow ∈ causes st ↔ (faultFlags st).refinLo = true) ∧
      (.rtdinLow ∈ causes st ↔ (faultFlags st).rtdinLo = true) ∧
      (.overUnderVoltage ∈ causes st ↔ (faultFlags st).ovuv = true)) ∧
    (goodStatus st = true ↔ st = 0)

/-- R149: after N acquisitions, K of them with a zero status byte, `GOOD` is exactly K higher and `BAD` exactly
N - K, and the trace is the concatenation of N whole acquisition traces (R151), whose trigger byte 0xB2, address 0x00
and count 8 are the spec's decisions D5 and D6 (log 16). Derived. -/
def Obligations.CountersAfterManyAcquisitions : Prop :=
  ∀ (n : Nat) (s : State), s.Ready → s.lock = .free →
    ∃ t, acquireTimes n s = .next t ∧
      t.good = s.good + (List.range n).countP (fun k => s.byteIn (8 * k + 7) == 0) ∧
      t.good + t.bad = s.good + s.bad + n ∧
      t.tokens = s.tokens ++ ((List.range n).map (fun k =>
        acquisitionTokens ((s.levels (64 * (k + 1))).drop (64 * k)))).flatten

/-- R150: the reading an acquisition returns depends on the levels sampled during it and on nothing else. That they are
64, eight bytes read, is the spec's decision D6 (log 16). Derived. -/
def Obligations.ReadingDependsOnItsSamplesOnly : Prop :=
  ∀ s u : State, s.Ready → u.Ready → s.lock = .free → u.lock = .free → s.levels 64 = u.levels 64 →
    ∃ t v r, exec .acquire s = .next t ∧ exec .acquire u = .next v ∧
      t.caller.results = s.caller.results ++ [r] ∧ v.caller.results = u.caller.results ++ [r]

/-! ### Temperature -/

/-- R160, R161: `TEMP_EXACT` is the acquisition, and returns the exact inverse of its resistance with the status
unchanged; the exact inverse has a value at every resistance an acquisition gives (numerics: decision D4). The trigger
byte, the address and the count of the acquisition's trace are the spec's decisions D5 and D6 (log 16). Derived. -/
def Obligations.TempExactReturnsTheInverse : Prop :=
  ∀ s : State, s.Ready → s.lock = .free →
    ∃ T, tExact float (resistanceOf float (((s.byteIn 1).toNat * 256 + (s.byteIn 2).toNat) / 2)) = some T ∧
      exec .tempExact s = .next (acquiredState s (returned s.caller (.temperature T (s.byteIn 7))))

/-- R160, R166: `TEMP_POLY3` returns `horner(POLY3_C, 3, R)` of its acquisition's resistance, with the status
unchanged (numerics: decision D4; the coefficients are open, decision D14). The trigger byte, the address and the count
of the acquisition's trace are the spec's decisions D5 and D6 (log 16). Derived. -/
def Obligations.TempPoly3ReturnsHorner : Prop :=
  ∀ s : State, s.Ready → s.lock = .free →
    exec .tempPoly3 s = .next (acquiredState s (returned s.caller (.temperature
      (horner float 3 Config.poly3C
        (resistanceOf float (((s.byteIn 1).toNat * 256 + (s.byteIn 2).toNat) / 2))) (s.byteIn 7))))

/-- R160, R167: `TEMP_POLY4`, as `TEMP_POLY3` with `POLY4_C` (decisions D4, D14; D5 and D6, log 16). Derived. -/
def Obligations.TempPoly4ReturnsHorner : Prop :=
  ∀ s : State, s.Ready → s.lock = .free →
    exec .tempPoly4 s = .next (acquiredState s (returned s.caller (.temperature
      (horner float 4 Config.poly4C
        (resistanceOf float (((s.byteIn 1).toNat * 256 + (s.byteIn 2).toNat) / 2))) (s.byteIn 7))))

/-- R160, R168: `TEMP_POLY5`, as `TEMP_POLY3` with `POLY5_C` (decisions D4, D14; D5 and D6, log 16). Derived. -/
def Obligations.TempPoly5ReturnsHorner : Prop :=
  ∀ s : State, s.Ready → s.lock = .free →
    exec .tempPoly5 s = .next (acquiredState s (returned s.caller (.temperature
      (horner float 5 Config.poly5C
        (resistanceOf float (((s.byteIn 1).toNat * 256 + (s.byteIn 2).toNat) / 2))) (s.byteIn 7))))

/-- R160: the strategy cannot be seen on the pins: the trace and the pins after `TEMP_s` are those after `ACQUIRE`, and
so are the counters. Derived. -/
def Obligations.StrategyIsNotOnThePins : Prop :=
  ∀ (s : State) (k : Strategy), s.Ready → s.lock = .free →
    ∃ t u, exec (Instr.temp k) s = .next t ∧ exec .acquire s = .next u ∧
      t.trace = u.trace ∧ t.pinCs = u.pinCs ∧ t.pinClk = u.pinClk ∧ t.pinSdo = u.pinSdo ∧ t.good = u.good ∧
      t.bad = u.bad

/-- R164: in binary64 (decision D4) no resistance an acquisition can give is a `DomainFault` of the exact inverse.
Derived. -/
def Obligations.NoDomainFaultFromAnAcquisition : Prop :=
  ∀ code : Nat, code < 32768 → (tExact float (resistanceOf float code)).isSome = true

/-- R164, over the reals: no value (the spec's decision D15) exactly when `R > R0 + a^2*R0/(4*|b|)`. Derived. -/
def Obligations.DomainLimitOverTheReals : Prop :=
  ∀ R : ℝ, tExact realFloat R = none ↔ R > 100 + 0.0039083 ^ 2 * 100 / (4 * 5.775e-7)

/-- R162, over the reals: where it has a value, `t_exact(R)` is the formula's, a root of `R0*(1 + a*T + b*T^2) = R`; it
is 0 at `R0`, and it is strictly increasing in `R` (both derived by the spec itself). Derived. -/
def Obligations.ExactInverseOverTheReals : Prop :=
  (∀ R T : ℝ, tExact realFloat R = some T →
    T = (-(0.0039083 * 100) + Real.sqrt (0.0039083 ^ 2 * 100 ^ 2 - 4 * (-5.775e-7) * 100 * (100 - R))) /
      (2 * (-5.775e-7) * 100)) ∧
  (∀ R T : ℝ, tExact realFloat R = some T → 100 * (1 + 0.0039083 * T - 5.775e-7 * T ^ 2) = R) ∧
  tExact realFloat 100 = some 0 ∧
  ∀ R Q T U : ℝ, tExact realFloat R = some T → tExact realFloat Q = some U → R < Q → T < U

/-- R169, over the reals: Horner evaluation of `c` is `c[0] + c[1]*R + ... + c[n]*R^n`. Derived. -/
def Obligations.HornerIsThePolynomial : Prop :=
  ∀ (n : Nat) (c : Fin (n + 1) → ℝ) (R : ℝ), horner realFloat n c R = ∑ k : Fin (n + 1), c k * R ^ (k : Nat)

/-- R13, decision D4: the sum, the product and the quotient of finite data are rounded to nearest with ties to
even, where the result is finite. Derived. -/
def Obligations.ArithmeticRoundsToNearestEven : Prop :=
  ∀ x y : Binary64, Binary64.isFinite x = true → Binary64.isFinite y = true →
    (Binary64.isFinite (Binary64.add x y) = true →
      NearestEven (Binary64.add x y) ((Binary64.value x : ℝ) + Binary64.value y)) ∧
    (Binary64.isFinite (Binary64.mul x y) = true →
      NearestEven (Binary64.mul x y) ((Binary64.value x : ℝ) * Binary64.value y)) ∧
    (Binary64.value y ≠ 0 → Binary64.isFinite (Binary64.div x y) = true →
      NearestEven (Binary64.div x y) ((Binary64.value x : ℝ) / Binary64.value y))

/-- R13, decision D4: the square root of a finite datum that is not negative is finite and correctly rounded.
Derived. -/
def Obligations.SquareRootRoundsToNearestEven : Prop :=
  ∀ x : Binary64, Binary64.isFinite x = true → 0 ≤ Binary64.value x →
    Binary64.isFinite (Binary64.sqrt x) = true ∧
      NearestEven (Binary64.sqrt x) (Real.sqrt (Binary64.value x : ℝ))

/-! ### Every step -/

/-- The invariant of every run holds at reset, and before construction. Derived from R39, R40, R221. -/
def Obligations.InvariantAtReset : Prop := Safety.Inv State.reset ∧ Safety.Inv State.unbuilt

/-- Tier 3. R39: every step keeps the invariant: callers' names distinct, `LOCK` held by exactly the caller in its
critical section, the pins configured and with a level once the instance is built, every sequencer position within its
operation, exactly 8 entries in the bank before the decode. Derived. -/
def Obligations.StepKeepsTheInvariant : Prop :=
  ∀ s t : State, Safety.Inv s → step s = .next t → Safety.Inv t

/-- R115, R127: from every state of the invariant a step completes: no primitive fails and no precondition of
one is broken, for any issued words and any levels. Derived. -/
def Obligations.StepNeverStops : Prop :=
  ∀ s : State, Safety.Inv s → ∃ t, step s = .next t

/-- R21, R228: at reset the bus is idle. Derived. -/
def Obligations.BusIdleAtReset : Prop := Safety.BusIdle State.reset

/-- Tier 3. R21, R123, R228: every step of a built instance keeps the bus idle but for a caller inside a frame or a
clock pulse; so whenever no operation is in progress chip-select is high and the clock low. Derived. -/
def Obligations.StepKeepsTheBusIdle : Prop :=
  (∀ s t : State, Safety.Inv s → s.life ≠ .unbuilt → Safety.BusIdle s → step s = .next t → Safety.BusIdle t) ∧
  ∀ s : State, Safety.BusIdle s → (∀ c ∈ s.callers, c.seq = none) → s.pinCs = some .high ∧ s.pinClk = some .low

/-- At reset the trace is the setup events and no acquisition yet, which is a chain of whole acquisitions. The order of
the setup events is the spec's decision D8 (log 15). Derived from R68, R180. -/
def Obligations.SerialAtReset : Prop := State.reset.tokens = setupTokens ∧ Safety.Serial setupTokens State.reset

/-- Tier 3. R61, R68: while callers issue only `ACQUIRE`, `TEMP_*` and `CLOSE`, every step adds to the trace so that it
stays a concatenation of whole acquisition traces and the part the holder of `LOCK` has performed: two acquisitions
never interleave. The trigger byte 0xB2, the address 0x00 and the count 8 of those traces are the spec's decisions D5 and
D6 (log 16). Derived. -/
def Obligations.AcquisitionsNeverInterleave : Prop :=
  ∀ (before : List Token) (s t : State), Safety.Inv s → (∀ c ∈ s.callers, c.onlyAcquires) →
    Safety.Serial before s → step s = .next t →
      Safety.Serial before t ∧ ∀ c ∈ t.callers, c.onlyAcquires

/-- R39, R26: the counters never decrease once the instance is built. Derived. -/
def Obligations.CountersNeverDecrease : Prop :=
  ∀ s t : State, Safety.Inv s → s.life ≠ .unbuilt → step s = .next t → s.good ≤ t.good ∧ s.bad ≤ t.bad

/-- R22, R29, R184: no step after construction changes a pin's mode, and `LIFE` only goes from `UNBUILT` to `READY` and
from `READY` to `CLOSED`. Derived. -/
def Obligations.ModesAndLifeMoveOnce : Prop :=
  ∀ s t : State, Safety.Inv s → step s = .next t →
    (s.life ≠ .unbuilt → t.modeCs = s.modeCs ∧ t.modeClk = s.modeClk ∧ t.modeSdo = s.modeSdo ∧ t.modeSdi = s.modeSdi) ∧
    (t.life = s.life ∨ (s.life = .unbuilt ∧ t.life = .ready) ∨ (s.life = .ready ∧ t.life = .closed))

/-- R3, R196, R197: the trace and the run's mark of refusals only grow, and the record of a `DomainFault` is never
cleared. Derived. -/
def Obligations.RecordsAreNeverTakenBack : Prop :=
  ∀ s t : State, step s = .next t →
    s.trace <+: t.trace ∧ s.refusals <+: t.refusals ∧ (s.domainFault = true → t.domainFault = true)

/-- R205: a step changes what is private to at most one caller, and no caller's name. Derived. -/
def Obligations.StepTouchesOneCaller : Prop :=
  ∀ s t : State, step s = .next t →
    ∃ (c d : Caller) (l : List Caller), s.callers.Perm (c :: l) ∧ t.callers.Perm (d :: l) ∧ d.id = c.id

/-- At reset no caller holds a reading, so every resistance a caller holds came from a code (R147), and no `DomainFault`
is recorded. Derived. -/
def Obligations.ReadingsInRangeAtReset : Prop :=
  (∀ c ∈ State.reset.callers, c.reading = none) ∧
    (∀ c ∈ State.reset.callers, ∀ r, c.reading = some r → ∃ code < 32768, r.ohms = resistanceOf float code) ∧
    State.reset.domainFault = false

/-- Tier 3. R164: no acquisition reaches `DomainFault`: while every resistance a caller holds came from a code, every
step keeps that so and records no `DomainFault` (in binary64, decision D4). Derived. -/
def Obligations.NoStepRecordsADomainFault : Prop :=
  ∀ s t : State,
    (∀ c ∈ s.callers, ∀ r, c.reading = some r → ∃ code < 32768, r.ohms = resistanceOf float code) →
    s.domainFault = false → step s = .next t →
      (∀ c ∈ t.callers, ∀ r, c.reading = some r → ∃ code < 32768, r.ohms = resistanceOf float code) ∧
      t.domainFault = false
end

