-- ==== Sys2Proof/Laws/State.lean ====
section
/-! SUPPORT. One lemma per field per update of the state, true by unfolding, so that no later proof unfolds a record
update. -/

namespace Sys2Proof.Machine

/-! ### `State.emit` -/

@[simp] theorem State.emit_pinCs (s : State) (t : Token) : (s.emit t).pinCs = s.pinCs := rfl
@[simp] theorem State.emit_pinClk (s : State) (t : Token) : (s.emit t).pinClk = s.pinClk := rfl
@[simp] theorem State.emit_pinSdo (s : State) (t : Token) : (s.emit t).pinSdo = s.pinSdo := rfl
@[simp] theorem State.emit_modeCs (s : State) (t : Token) : (s.emit t).modeCs = s.modeCs := rfl
@[simp] theorem State.emit_modeClk (s : State) (t : Token) : (s.emit t).modeClk = s.modeClk := rfl
@[simp] theorem State.emit_modeSdo (s : State) (t : Token) : (s.emit t).modeSdo = s.modeSdo := rfl
@[simp] theorem State.emit_modeSdi (s : State) (t : Token) : (s.emit t).modeSdi = s.modeSdi := rfl
@[simp] theorem State.emit_good (s : State) (t : Token) : (s.emit t).good = s.good := rfl
@[simp] theorem State.emit_bad (s : State) (t : Token) : (s.emit t).bad = s.bad := rfl
@[simp] theorem State.emit_lock (s : State) (t : Token) : (s.emit t).lock = s.lock := rfl
@[simp] theorem State.emit_life (s : State) (t : Token) : (s.emit t).life = s.life := rfl
@[simp] theorem State.emit_domainFault (s : State) (t : Token) : (s.emit t).domainFault = s.domainFault := rfl
@[simp] theorem State.emit_refusals (s : State) (t : Token) : (s.emit t).refusals = s.refusals := rfl
@[simp] theorem State.emit_trace (s : State) (t : Token) : (s.emit t).trace = s.trace ++ [⟨s.caller.id, t⟩] := rfl
@[simp] theorem State.emit_caller (s : State) (t : Token) : (s.emit t).caller = s.caller := rfl
@[simp] theorem State.emit_others (s : State) (t : Token) : (s.emit t).others = s.others := rfl
@[simp] theorem State.emit_answers (s : State) (t : Token) : (s.emit t).answers = s.answers := rfl
@[simp] theorem State.emit_samples (s : State) (t : Token) : (s.emit t).samples = s.samples := rfl
@[simp] theorem State.emit_turn (s : State) (t : Token) : (s.emit t).turn = s.turn := rfl

/-! ### `State.setPin` -/

@[simp] theorem State.setPin_modeCs (s : State) (p : OutPin) (l : Level) : (s.setPin p l).modeCs = s.modeCs := by cases p <;> rfl
@[simp] theorem State.setPin_modeClk (s : State) (p : OutPin) (l : Level) : (s.setPin p l).modeClk = s.modeClk := by cases p <;> rfl
@[simp] theorem State.setPin_modeSdo (s : State) (p : OutPin) (l : Level) : (s.setPin p l).modeSdo = s.modeSdo := by cases p <;> rfl
@[simp] theorem State.setPin_modeSdi (s : State) (p : OutPin) (l : Level) : (s.setPin p l).modeSdi = s.modeSdi := by cases p <;> rfl
@[simp] theorem State.setPin_good (s : State) (p : OutPin) (l : Level) : (s.setPin p l).good = s.good := by cases p <;> rfl
@[simp] theorem State.setPin_bad (s : State) (p : OutPin) (l : Level) : (s.setPin p l).bad = s.bad := by cases p <;> rfl
@[simp] theorem State.setPin_lock (s : State) (p : OutPin) (l : Level) : (s.setPin p l).lock = s.lock := by cases p <;> rfl
@[simp] theorem State.setPin_life (s : State) (p : OutPin) (l : Level) : (s.setPin p l).life = s.life := by cases p <;> rfl
@[simp] theorem State.setPin_domainFault (s : State) (p : OutPin) (l : Level) : (s.setPin p l).domainFault = s.domainFault := by cases p <;> rfl
@[simp] theorem State.setPin_refusals (s : State) (p : OutPin) (l : Level) : (s.setPin p l).refusals = s.refusals := by cases p <;> rfl
@[simp] theorem State.setPin_trace (s : State) (p : OutPin) (l : Level) : (s.setPin p l).trace = s.trace := by cases p <;> rfl
@[simp] theorem State.setPin_caller (s : State) (p : OutPin) (l : Level) : (s.setPin p l).caller = s.caller := by cases p <;> rfl
@[simp] theorem State.setPin_others (s : State) (p : OutPin) (l : Level) : (s.setPin p l).others = s.others := by cases p <;> rfl
@[simp] theorem State.setPin_answers (s : State) (p : OutPin) (l : Level) : (s.setPin p l).answers = s.answers := by cases p <;> rfl
@[simp] theorem State.setPin_samples (s : State) (p : OutPin) (l : Level) : (s.setPin p l).samples = s.samples := by cases p <;> rfl
@[simp] theorem State.setPin_turn (s : State) (p : OutPin) (l : Level) : (s.setPin p l).turn = s.turn := by cases p <;> rfl
@[simp] theorem State.setPin_cs_pinCs (s : State) (l : Level) : (s.setPin .cs l).pinCs = some l := rfl
@[simp] theorem State.setPin_cs_pinClk (s : State) (l : Level) : (s.setPin .cs l).pinClk = s.pinClk := rfl
@[simp] theorem State.setPin_cs_pinSdo (s : State) (l : Level) : (s.setPin .cs l).pinSdo = s.pinSdo := rfl
@[simp] theorem State.setPin_clk_pinCs (s : State) (l : Level) : (s.setPin .clk l).pinCs = s.pinCs := rfl
@[simp] theorem State.setPin_clk_pinClk (s : State) (l : Level) : (s.setPin .clk l).pinClk = some l := rfl
@[simp] theorem State.setPin_clk_pinSdo (s : State) (l : Level) : (s.setPin .clk l).pinSdo = s.pinSdo := rfl
@[simp] theorem State.setPin_sdo_pinCs (s : State) (l : Level) : (s.setPin .sdo l).pinCs = s.pinCs := rfl
@[simp] theorem State.setPin_sdo_pinClk (s : State) (l : Level) : (s.setPin .sdo l).pinClk = s.pinClk := rfl
@[simp] theorem State.setPin_sdo_pinSdo (s : State) (l : Level) : (s.setPin .sdo l).pinSdo = some l := rfl
@[simp] theorem State.pin_setPin (s : State) (p q : OutPin) (l : Level) :
    (s.setPin p l).pin q = if q = p then some l else s.pin q := by cases p <;> cases q <;> rfl
@[simp] theorem State.mode_setPin (s : State) (p : OutPin) (l : Level) (r : Role) : (s.setPin p l).mode r = s.mode r := by cases p <;> cases r <;> rfl

/-! ### `State.setMode` -/

@[simp] theorem State.setMode_pinCs (s : State) (p : Role) (m : PinMode) : (s.setMode p m).pinCs = s.pinCs := by cases p <;> rfl
@[simp] theorem State.setMode_pinClk (s : State) (p : Role) (m : PinMode) : (s.setMode p m).pinClk = s.pinClk := by cases p <;> rfl
@[simp] theorem State.setMode_pinSdo (s : State) (p : Role) (m : PinMode) : (s.setMode p m).pinSdo = s.pinSdo := by cases p <;> rfl
@[simp] theorem State.setMode_good (s : State) (p : Role) (m : PinMode) : (s.setMode p m).good = s.good := by cases p <;> rfl
@[simp] theorem State.setMode_bad (s : State) (p : Role) (m : PinMode) : (s.setMode p m).bad = s.bad := by cases p <;> rfl
@[simp] theorem State.setMode_lock (s : State) (p : Role) (m : PinMode) : (s.setMode p m).lock = s.lock := by cases p <;> rfl
@[simp] theorem State.setMode_life (s : State) (p : Role) (m : PinMode) : (s.setMode p m).life = s.life := by cases p <;> rfl
@[simp] theorem State.setMode_domainFault (s : State) (p : Role) (m : PinMode) : (s.setMode p m).domainFault = s.domainFault := by cases p <;> rfl
@[simp] theorem State.setMode_refusals (s : State) (p : Role) (m : PinMode) : (s.setMode p m).refusals = s.refusals := by cases p <;> rfl
@[simp] theorem State.setMode_trace (s : State) (p : Role) (m : PinMode) : (s.setMode p m).trace = s.trace := by cases p <;> rfl
@[simp] theorem State.setMode_caller (s : State) (p : Role) (m : PinMode) : (s.setMode p m).caller = s.caller := by cases p <;> rfl
@[simp] theorem State.setMode_others (s : State) (p : Role) (m : PinMode) : (s.setMode p m).others = s.others := by cases p <;> rfl
@[simp] theorem State.setMode_answers (s : State) (p : Role) (m : PinMode) : (s.setMode p m).answers = s.answers := by cases p <;> rfl
@[simp] theorem State.setMode_samples (s : State) (p : Role) (m : PinMode) : (s.setMode p m).samples = s.samples := by cases p <;> rfl
@[simp] theorem State.setMode_turn (s : State) (p : Role) (m : PinMode) : (s.setMode p m).turn = s.turn := by cases p <;> rfl
@[simp] theorem State.mode_setMode (s : State) (p q : Role) (m : PinMode) :
    (s.setMode p m).mode q = if q = p then m else s.mode q := by cases p <;> cases q <;> rfl
@[simp] theorem State.mode_emit (s : State) (t : Token) (r : Role) : (s.emit t).mode r = s.mode r := by cases r <;> rfl
@[simp] theorem State.pin_emit (s : State) (t : Token) (p : OutPin) : (s.emit t).pin p = s.pin p := by cases p <;> rfl

/-! ### `State.advance` -/

@[simp] theorem State.advance_pinCs (s : State) : (s.advance).pinCs = s.pinCs := rfl
@[simp] theorem State.advance_pinClk (s : State) : (s.advance).pinClk = s.pinClk := rfl
@[simp] theorem State.advance_pinSdo (s : State) : (s.advance).pinSdo = s.pinSdo := rfl
@[simp] theorem State.advance_modeCs (s : State) : (s.advance).modeCs = s.modeCs := rfl
@[simp] theorem State.advance_modeClk (s : State) : (s.advance).modeClk = s.modeClk := rfl
@[simp] theorem State.advance_modeSdo (s : State) : (s.advance).modeSdo = s.modeSdo := rfl
@[simp] theorem State.advance_modeSdi (s : State) : (s.advance).modeSdi = s.modeSdi := rfl
@[simp] theorem State.advance_good (s : State) : (s.advance).good = s.good := rfl
@[simp] theorem State.advance_bad (s : State) : (s.advance).bad = s.bad := rfl
@[simp] theorem State.advance_lock (s : State) : (s.advance).lock = s.lock := rfl
@[simp] theorem State.advance_life (s : State) : (s.advance).life = s.life := rfl
@[simp] theorem State.advance_domainFault (s : State) : (s.advance).domainFault = s.domainFault := rfl
@[simp] theorem State.advance_refusals (s : State) : (s.advance).refusals = s.refusals := rfl
@[simp] theorem State.advance_trace (s : State) : (s.advance).trace = s.trace := rfl
@[simp] theorem State.advance_others (s : State) : (s.advance).others = s.others := rfl
@[simp] theorem State.advance_answers (s : State) : (s.advance).answers = s.answers := rfl
@[simp] theorem State.advance_samples (s : State) : (s.advance).samples = s.samples := rfl
@[simp] theorem State.advance_turn (s : State) : (s.advance).turn = s.turn := rfl
@[simp] theorem State.advance_caller_id (s : State) : s.advance.caller.id = s.caller.id := rfl
@[simp] theorem State.advance_caller_port (s : State) : s.advance.caller.port = s.caller.port := rfl
@[simp] theorem State.advance_caller_seq (s : State) : s.advance.caller.seq = s.caller.seq.map (fun q => { q with pos := q.pos + 1 }) := rfl
@[simp] theorem State.advance_caller_acc (s : State) : s.advance.caller.acc = s.caller.acc := rfl
@[simp] theorem State.advance_caller_out (s : State) : s.advance.caller.out = s.caller.out := rfl
@[simp] theorem State.advance_caller_bank (s : State) : s.advance.caller.bank = s.caller.bank := rfl
@[simp] theorem State.advance_caller_reading (s : State) : s.advance.caller.reading = s.caller.reading := rfl
@[simp] theorem State.advance_caller_results (s : State) : s.advance.caller.results = s.caller.results := rfl
@[simp] theorem State.mode_advance (s : State) (r : Role) : s.advance.mode r = s.mode r := by cases r <;> rfl

/-! ### `Caller.vacate` and `Caller.finish` -/

@[simp] theorem Caller.vacate_id (c : Caller) : c.vacate.id = c.id := rfl
@[simp] theorem Caller.vacate_port (c : Caller) : c.vacate.port = c.port := rfl
@[simp] theorem Caller.vacate_seq (c : Caller) : c.vacate.seq = none := rfl
@[simp] theorem Caller.vacate_acc (c : Caller) : c.vacate.acc = c.acc := rfl
@[simp] theorem Caller.vacate_out (c : Caller) : c.vacate.out = [] := rfl
@[simp] theorem Caller.vacate_bank (c : Caller) : c.vacate.bank = [] := rfl
@[simp] theorem Caller.vacate_reading (c : Caller) : c.vacate.reading = none := rfl
@[simp] theorem Caller.vacate_results (c : Caller) : c.vacate.results = c.results := rfl
@[simp] theorem Caller.finish_id (c : Caller) (r : Result) : (c.finish r).id = c.id := rfl
@[simp] theorem Caller.finish_port (c : Caller) (r : Result) : (c.finish r).port = c.port := rfl
@[simp] theorem Caller.finish_seq (c : Caller) (r : Result) : (c.finish r).seq = none := rfl
@[simp] theorem Caller.finish_acc (c : Caller) (r : Result) : (c.finish r).acc = c.acc := rfl
@[simp] theorem Caller.finish_out (c : Caller) (r : Result) : (c.finish r).out = [] := rfl
@[simp] theorem Caller.finish_bank (c : Caller) (r : Result) : (c.finish r).bank = [] := rfl
@[simp] theorem Caller.finish_reading (c : Caller) (r : Result) : (c.finish r).reading = none := rfl
@[simp] theorem Caller.finish_results (c : Caller) (r : Result) : (c.finish r).results = c.results ++ [r] := rfl

/-! ### `State.finish`, `State.refuse`, `State.accept`, `State.build` -/

@[simp] theorem State.finish_pinCs (s : State) (r : Result) : (s.finish r).pinCs = s.pinCs := rfl
@[simp] theorem State.finish_pinClk (s : State) (r : Result) : (s.finish r).pinClk = s.pinClk := rfl
@[simp] theorem State.finish_pinSdo (s : State) (r : Result) : (s.finish r).pinSdo = s.pinSdo := rfl
@[simp] theorem State.finish_modeCs (s : State) (r : Result) : (s.finish r).modeCs = s.modeCs := rfl
@[simp] theorem State.finish_modeClk (s : State) (r : Result) : (s.finish r).modeClk = s.modeClk := rfl
@[simp] theorem State.finish_modeSdo (s : State) (r : Result) : (s.finish r).modeSdo = s.modeSdo := rfl
@[simp] theorem State.finish_modeSdi (s : State) (r : Result) : (s.finish r).modeSdi = s.modeSdi := rfl
@[simp] theorem State.finish_good (s : State) (r : Result) : (s.finish r).good = s.good := rfl
@[simp] theorem State.finish_bad (s : State) (r : Result) : (s.finish r).bad = s.bad := rfl
@[simp] theorem State.finish_lock (s : State) (r : Result) : (s.finish r).lock = s.lock := rfl
@[simp] theorem State.finish_life (s : State) (r : Result) : (s.finish r).life = s.life := rfl
@[simp] theorem State.finish_domainFault (s : State) (r : Result) : (s.finish r).domainFault = s.domainFault := rfl
@[simp] theorem State.finish_refusals (s : State) (r : Result) : (s.finish r).refusals = s.refusals := rfl
@[simp] theorem State.finish_trace (s : State) (r : Result) : (s.finish r).trace = s.trace := rfl
@[simp] theorem State.finish_caller (s : State) (r : Result) : (s.finish r).caller = s.caller.finish r := rfl
@[simp] theorem State.finish_others (s : State) (r : Result) : (s.finish r).others = s.others := rfl
@[simp] theorem State.finish_answers (s : State) (r : Result) : (s.finish r).answers = s.answers := rfl
@[simp] theorem State.finish_samples (s : State) (r : Result) : (s.finish r).samples = s.samples := rfl
@[simp] theorem State.finish_turn (s : State) (r : Result) : (s.finish r).turn = s.turn := rfl
@[simp] theorem State.refuse_pinCs (s : State) (r : RefuseReason) : (s.refuse r).pinCs = s.pinCs := rfl
@[simp] theorem State.refuse_pinClk (s : State) (r : RefuseReason) : (s.refuse r).pinClk = s.pinClk := rfl
@[simp] theorem State.refuse_pinSdo (s : State) (r : RefuseReason) : (s.refuse r).pinSdo = s.pinSdo := rfl
@[simp] theorem State.refuse_modeCs (s : State) (r : RefuseReason) : (s.refuse r).modeCs = s.modeCs := rfl
@[simp] theorem State.refuse_modeClk (s : State) (r : RefuseReason) : (s.refuse r).modeClk = s.modeClk := rfl
@[simp] theorem State.refuse_modeSdo (s : State) (r : RefuseReason) : (s.refuse r).modeSdo = s.modeSdo := rfl
@[simp] theorem State.refuse_modeSdi (s : State) (r : RefuseReason) : (s.refuse r).modeSdi = s.modeSdi := rfl
@[simp] theorem State.refuse_good (s : State) (r : RefuseReason) : (s.refuse r).good = s.good := rfl
@[simp] theorem State.refuse_bad (s : State) (r : RefuseReason) : (s.refuse r).bad = s.bad := rfl
@[simp] theorem State.refuse_lock (s : State) (r : RefuseReason) : (s.refuse r).lock = s.lock := rfl
@[simp] theorem State.refuse_life (s : State) (r : RefuseReason) : (s.refuse r).life = s.life := rfl
@[simp] theorem State.refuse_domainFault (s : State) (r : RefuseReason) : (s.refuse r).domainFault = s.domainFault := rfl
@[simp] theorem State.refuse_refusals (s : State) (r : RefuseReason) : (s.refuse r).refusals = s.refusals ++ [⟨s.caller.id, r⟩] := rfl
@[simp] theorem State.refuse_trace (s : State) (r : RefuseReason) : (s.refuse r).trace = s.trace := rfl
@[simp] theorem State.refuse_caller (s : State) (r : RefuseReason) : (s.refuse r).caller = s.caller := rfl
@[simp] theorem State.refuse_others (s : State) (r : RefuseReason) : (s.refuse r).others = s.others := rfl
@[simp] theorem State.refuse_answers (s : State) (r : RefuseReason) : (s.refuse r).answers = s.answers := rfl
@[simp] theorem State.refuse_samples (s : State) (r : RefuseReason) : (s.refuse r).samples = s.samples := rfl
@[simp] theorem State.refuse_turn (s : State) (r : RefuseReason) : (s.refuse r).turn = s.turn := rfl
@[simp] theorem State.accept_pinCs (s : State) (i : Instr) : (s.accept i).pinCs = s.pinCs := rfl
@[simp] theorem State.accept_pinClk (s : State) (i : Instr) : (s.accept i).pinClk = s.pinClk := rfl
@[simp] theorem State.accept_pinSdo (s : State) (i : Instr) : (s.accept i).pinSdo = s.pinSdo := rfl
@[simp] theorem State.accept_modeCs (s : State) (i : Instr) : (s.accept i).modeCs = s.modeCs := rfl
@[simp] theorem State.accept_modeClk (s : State) (i : Instr) : (s.accept i).modeClk = s.modeClk := rfl
@[simp] theorem State.accept_modeSdo (s : State) (i : Instr) : (s.accept i).modeSdo = s.modeSdo := rfl
@[simp] theorem State.accept_modeSdi (s : State) (i : Instr) : (s.accept i).modeSdi = s.modeSdi := rfl
@[simp] theorem State.accept_good (s : State) (i : Instr) : (s.accept i).good = s.good := rfl
@[simp] theorem State.accept_bad (s : State) (i : Instr) : (s.accept i).bad = s.bad := rfl
@[simp] theorem State.accept_lock (s : State) (i : Instr) : (s.accept i).lock = s.lock := rfl
@[simp] theorem State.accept_life (s : State) (i : Instr) : (s.accept i).life = s.life := rfl
@[simp] theorem State.accept_domainFault (s : State) (i : Instr) : (s.accept i).domainFault = s.domainFault := rfl
@[simp] theorem State.accept_refusals (s : State) (i : Instr) : (s.accept i).refusals = s.refusals := rfl
@[simp] theorem State.accept_trace (s : State) (i : Instr) : (s.accept i).trace = s.trace := rfl
@[simp] theorem State.accept_caller (s : State) (i : Instr) : (s.accept i).caller = { s.caller.vacate with seq := some ⟨i, 0⟩ } := rfl
@[simp] theorem State.accept_others (s : State) (i : Instr) : (s.accept i).others = s.others := rfl
@[simp] theorem State.accept_answers (s : State) (i : Instr) : (s.accept i).answers = s.answers := rfl
@[simp] theorem State.accept_samples (s : State) (i : Instr) : (s.accept i).samples = s.samples := rfl
@[simp] theorem State.accept_turn (s : State) (i : Instr) : (s.accept i).turn = s.turn := rfl
@[simp] theorem State.build_pinCs (s : State) : (s.build).pinCs = s.pinCs := rfl
@[simp] theorem State.build_pinClk (s : State) : (s.build).pinClk = s.pinClk := rfl
@[simp] theorem State.build_pinSdo (s : State) : (s.build).pinSdo = s.pinSdo := rfl
@[simp] theorem State.build_modeCs (s : State) : (s.build).modeCs = s.modeCs := rfl
@[simp] theorem State.build_modeClk (s : State) : (s.build).modeClk = s.modeClk := rfl
@[simp] theorem State.build_modeSdo (s : State) : (s.build).modeSdo = s.modeSdo := rfl
@[simp] theorem State.build_modeSdi (s : State) : (s.build).modeSdi = s.modeSdi := rfl
@[simp] theorem State.build_good (s : State) : (s.build).good = 0 := rfl
@[simp] theorem State.build_bad (s : State) : (s.build).bad = 0 := rfl
@[simp] theorem State.build_lock (s : State) : (s.build).lock = .free := rfl
@[simp] theorem State.build_life (s : State) : (s.build).life = .ready := rfl
@[simp] theorem State.build_domainFault (s : State) : (s.build).domainFault = s.domainFault := rfl
@[simp] theorem State.build_refusals (s : State) : (s.build).refusals = s.refusals := rfl
@[simp] theorem State.build_trace (s : State) : (s.build).trace = s.trace := rfl
@[simp] theorem State.build_caller (s : State) : (s.build).caller = s.caller := rfl
@[simp] theorem State.build_others (s : State) : (s.build).others = s.others := rfl
@[simp] theorem State.build_answers (s : State) : (s.build).answers = s.answers := rfl
@[simp] theorem State.build_samples (s : State) : (s.build).samples = s.samples := rfl
@[simp] theorem State.build_turn (s : State) : (s.build).turn = s.turn := rfl

end Sys2Proof.Machine
end

