-- ==== Sys2Proof/Laws/Ops.lean ====
section
/-! SUPPORT. For each shared operation, one lemma that says everything it can do: the runs of steps that complete, and
the state they lead to. -/

namespace Sys2Proof.Machine

/-! ### Steps that all complete -/

/-- Every one of the steps completes, and together they lead from the first state to the last. -/
def Completes : State → List Micro → State → Prop
  | s, [], t => s = t
  | s, m :: ms, t => ∃ u, s.perform m = .done u ∧ Completes u.advance ms t

theorem Completes.to {s t u : State} {xs : List Micro} (h : Completes s xs t) (e : t = u) : Completes s xs u := e ▸ h

theorem Completes.append {s t u : State} {xs ys : List Micro} (h : Completes s xs t) (k : Completes t ys u) :
    Completes s (xs ++ ys) u := by
  induction xs generalizing s with
  | nil => cases h; exact k
  | cons m ms ih => obtain ⟨v, hv, hr⟩ := h; exact ⟨v, hv, ih hr⟩

theorem Completes.performAll_append {s t : State} {xs ys : List Micro} (h : Completes s xs t) :
    s.performAll (xs ++ ys) = t.performAll ys := by
  induction xs generalizing s with
  | nil => cases h; rfl
  | cons m ms ih => obtain ⟨v, hv, hr⟩ := h; simp only [List.cons_append, State.performAll, hv]; exact ih hr

theorem Completes.performAll {s t : State} {xs : List Micro} (h : Completes s xs t) : s.performAll xs = .next t := by
  have := h.performAll_append (ys := [])
  rwa [List.append_nil] at this

/-- The sequencer position moved on by `n` steps. -/
def State.skip (s : State) (n : Nat) : State :=
  { s with caller := { s.caller with seq := s.caller.seq.map (fun q => { q with pos := q.pos + n }) } }

theorem State.skip_skip (s : State) (m n : Nat) : (s.skip m).skip n = s.skip (m + n) := by
  simp [State.skip, Function.comp_def, Nat.add_assoc]

theorem State.advance_eq_skip (s : State) : s.advance = s.skip 1 := rfl

/-! ### Sending -/

theorem completes_sendBit {s : State} (h : s.configured) (b : Bool) :
    Completes s (sendBit b) (State.skip { s with
      pinClk := some .low
      pinSdo := some (Level.ofBit b)
      trace := s.trace ++ s.events [.wr .clk .high, .wr .sdo (Level.ofBit b), .wr .clk .low] } 3) := by
  obtain ⟨_, h2, h3, _⟩ := h
  refine ⟨_, if_pos h2, _, if_pos h3, _, if_pos h2, ?_⟩
  simp [State.advance_eq_skip, State.skip, State.events, State.emit, State.setPin, Completes, Function.comp_def,
    Nat.add_assoc]

theorem completes_sendBits {s : State} (h : s.configured) (b : Bool) (bs : List Bool) :
    Completes s ((bs ++ [b]).flatMap sendBit) (State.skip { s with
      pinClk := some .low
      pinSdo := some (Level.ofBit b)
      trace := s.trace ++ s.events ((bs ++ [b]).flatMap
        (fun b => [.wr .clk .high, .wr .sdo (Level.ofBit b), .wr .clk .low])) } (3 * (bs.length + 1))) := by
  induction bs generalizing s with
  | nil => simpa using completes_sendBit h b
  | cons a bs ih =>
    refine ((completes_sendBit h a).append (ih ?_)).to ?_
    · simpa [State.skip] using h
    · cases hq : s.caller.seq <;> simp [State.skip, State.events, hq]; omega

theorem completes_sendByte {s : State} (h : s.configured) (v : Byte) :
    Completes s (sendByte v) (State.skip { s with
      pinClk := some .low
      pinSdo := some (Level.ofBit (v.getLsbD 0))
      trace := s.trace ++ s.events (sendTokens v) } 24) :=
  completes_sendBits h (v.getLsbD 0)
    [v.getLsbD 7, v.getLsbD 6, v.getLsbD 5, v.getLsbD 4, v.getLsbD 3, v.getLsbD 2, v.getLsbD 1]

theorem completes_wrCs {s : State} (h : s.configured) (l : Level) :
    Completes s [.wr .cs l] (State.skip { s with pinCs := some l, trace := s.trace ++ s.events [.wr .cs l] } 1) := by
  refine ⟨_, if_pos h.1, ?_⟩
  simp [State.advance_eq_skip, State.skip, State.events, State.emit, State.setPin, Completes]

theorem completes_writeFrame {s : State} (h : s.configured) (a v : Byte) :
    Completes s (writeFrameSteps a v) (State.skip { s with
      pinCs := some .high
      pinClk := some .low
      pinSdo := some (Level.ofBit (v.getLsbD 0))
      trace := s.trace ++ s.events (writeFrameTokens a v) } 50) := by
  refine ((((completes_wrCs h _).append (completes_sendByte ?_ a)).append (completes_sendByte ?_ v)).append
    (completes_wrCs ?_ _)).to ?_
  · exact h
  · exact h
  · exact h
  · simp [State.skip, State.events, writeFrameTokens, Function.comp_def, Nat.add_assoc]

/-! ### Receiving -/

theorem levelFrom_drop (answers : List Level) (samples n k : Nat) :
    levelFrom (answers.drop n) (samples + n) k = levelFrom answers samples (n + k) := by
  simp [levelFrom, Nat.add_assoc]

theorem levelsFrom_add (answers : List Level) (samples m n : Nat) :
    levelsFrom answers samples (m + n) =
      levelsFrom answers samples m ++ levelsFrom (answers.drop m) (samples + m) n := by
  simp [levelsFrom, List.range_add, levelFrom_drop, Function.comp_def]

theorem byteFrom_drop (answers : List Level) (samples n k : Nat) :
    byteFrom (answers.drop (8 * n)) (samples + 8 * n) k = byteFrom answers samples (n + k) := by
  have e : ∀ i, levelFrom (answers.drop (8 * n)) (samples + 8 * n) (8 * k + i) =
      levelFrom answers samples (8 * (n + k) + i) := by
    intro i; rw [levelFrom_drop, Nat.mul_add, Nat.add_assoc]
  simp only [byteFrom, e]

theorem bytesFrom_add (answers : List Level) (samples m n : Nat) :
    bytesFrom answers samples (m + n) =
      bytesFrom answers samples m ++ bytesFrom (answers.drop (8 * m)) (samples + 8 * m) n := by
  simp [bytesFrom, List.range_add, byteFrom_drop, Function.comp_def]

theorem State.sdi_eq (s : State) : s.sdi = levelFrom s.answers s.samples 0 := by
  unfold State.sdi levelFrom; cases s.answers <;> simp

theorem completes_recvBit {s : State} (h : s.configured) :
    Completes s recvBit (State.skip { s with
      answers := s.answers.drop 1
      samples := s.samples + 1
      pinClk := some .low
      trace := s.trace ++ s.events (recvTokens (s.levels 1))
      caller := { s.caller with acc := (s.levels 1).foldl shiftIn s.caller.acc } } 3) := by
  obtain ⟨_, h2, _, h4⟩ := h
  refine ⟨_, if_pos h2, _, if_pos h4, _, if_pos h2, ?_⟩
  simp [State.advance_eq_skip, State.skip, State.events, State.emit, State.setPin, Completes, Function.comp_def,
    Nat.add_assoc, recvTokens, State.levels, levelsFrom, State.sdi_eq]

theorem completes_recvBits {s : State} (h : s.configured) (n : Nat) :
    Completes s (List.replicate (n + 1) recvBit).flatten (State.skip { s with
      answers := s.answers.drop (n + 1)
      samples := s.samples + (n + 1)
      pinClk := some .low
      trace := s.trace ++ s.events (recvTokens (s.levels (n + 1)))
      caller := { s.caller with acc := (s.levels (n + 1)).foldl shiftIn s.caller.acc } } (3 * (n + 1))) := by
  induction n generalizing s with
  | zero => simpa using completes_recvBit h
  | succ n ih =>
    rw [List.replicate_succ, List.flatten_cons]
    refine ((completes_recvBit h).append (ih ?_)).to ?_
    · simpa [State.skip] using h
    · have e : n + 1 + 1 = 1 + (n + 1) := by omega
      rw [e]
      cases hq : s.caller.seq <;>
        simp [State.skip, State.events, State.levels, levelsFrom_add, recvTokens, Nat.add_assoc, hq]
      all_goals omega

theorem foldl_shiftIn (a b c d e f g h : Level) :
    [a, b, c, d, e, f, g, h].foldl shiftIn 0 =
      byteOfBits a.toBit b.toBit c.toBit d.toBit e.toBit f.toBit g.toBit h.toBit := by
  cases a <;> cases b <;> cases c <;> cases d <;> cases e <;> cases f <;> cases g <;> cases h <;> rfl

theorem State.foldl_levels (s : State) : (s.levels 8).foldl shiftIn 0 = s.byteIn 0 :=
  foldl_shiftIn _ _ _ _ _ _ _ _

theorem completes_recvByte {s : State} (h : s.configured) :
    Completes s recvByte (State.skip { s with
      answers := s.answers.drop 8
      samples := s.samples + 8
      pinClk := some .low
      trace := s.trace ++ s.events (recvTokens (s.levels 8))
      caller := { s.caller with acc := s.byteIn 0 } } 25) := by
  refine ⟨_, rfl, (completes_recvBits (n := 7) (s := State.advance { s with caller := { s.caller with acc := 0 } })
    h).to ?_⟩
  rw [← State.foldl_levels]
  simp [State.advance_eq_skip, State.skip, State.levels, State.events, Function.comp_def, Nat.add_assoc]

theorem completes_recvKeep {s : State} (h : s.configured) :
    Completes s (recvByte ++ [.keep]) (State.skip { s with
      answers := s.answers.drop 8
      samples := s.samples + 8
      pinClk := some .low
      trace := s.trace ++ s.events (recvTokens (s.levels 8))
      caller := { s.caller with acc := s.byteIn 0, out := s.caller.out ++ [s.byteIn 0] } } 26) := by
  refine (completes_recvByte h).append ⟨_, rfl, ?_⟩
  simp [Completes, State.advance_eq_skip, State.skip, Function.comp_def, Nat.add_assoc]

theorem completes_recvBytes {s : State} (h : s.configured) (n : Nat) :
    Completes s (recvBytes n) (State.skip { s with
      answers := s.answers.drop (8 * n)
      samples := s.samples + 8 * n
      pinClk := if n = 0 then s.pinClk else some .low
      trace := s.trace ++ s.events (recvTokens (s.levels (8 * n)))
      caller := { s.caller with
        acc := if n = 0 then s.caller.acc else s.byteIn (n - 1)
        out := s.caller.out ++ s.bytesIn n } } (26 * n)) := by
  induction n generalizing s with
  | zero =>
    simp [recvBytes, Completes, State.skip, State.levels, levelsFrom, recvTokens, State.events, State.bytesIn, bytesFrom]
  | succ n ih =>
    unfold recvBytes at ih ⊢
    rw [List.replicate_succ, List.flatten_cons]
    refine ((completes_recvKeep h).append (ih ?_)).to ?_
    · simpa [State.skip] using h
    · have e := byteFrom_drop s.answers s.samples 1
      have e1 : bytesFrom s.answers s.samples 1 = [byteFrom s.answers s.samples 0] := rfl
      have e2 : 8 * (n + 1) = 8 + 8 * n := by omega
      have e3 : n + 1 = 1 + n := by omega
      have e4 := bytesFrom_add s.answers s.samples 1 n
      have e5 : byteFrom (s.answers.drop 8) (s.samples + 8) (n - 1) = byteFrom s.answers s.samples (1 + (n - 1)) := e _
      have e6 : n ≠ 0 → 1 + (n - 1) = n := by omega
      rw [e2]
      by_cases hn : n = 0
      · subst hn
        cases hq : s.caller.seq <;>
          simp [State.skip, State.events, State.levels, State.byteIn, State.bytesIn, levelsFrom, bytesFrom, recvTokens,
            hq]
      · cases hq : s.caller.seq <;>
          simp [State.skip, State.events, State.levels, State.byteIn, State.bytesIn, levelsFrom_add, recvTokens, e3, e4,
            e5, e6, e1, hq, hn, Nat.add_assoc]
        omega

theorem completes_readFrame {s : State} (h : s.configured) (a : Byte) (n : Nat) :
    Completes s (readFrameSteps a n) (State.skip { s with
      answers := s.answers.drop (8 * n)
      samples := s.samples + 8 * n
      pinCs := some .high
      pinClk := some .low
      pinSdo := some (Level.ofBit (a.getLsbD 0))
      trace := s.trace ++ s.events (readFrameTokens a (s.levels (8 * n)))
      caller := { s.caller with
        acc := if n = 0 then s.caller.acc else s.byteIn (n - 1)
        out := s.caller.out ++ s.bytesIn n } } (26 * n + 26)) := by
  refine ((((completes_wrCs h _).append (completes_sendByte ?_ a)).append (completes_recvBytes ?_ n)).append
    (completes_wrCs ?_ _)).to ?_
  · exact h
  · exact h
  · exact h
  · cases hq : s.caller.seq <;>
      simp [State.skip, State.events, State.levels, State.byteIn, State.bytesIn, readFrameTokens, hq]
    omega

/-! ### The acquisition -/

theorem adcCode_toNat (msb lsb : Byte) : (adcCode msb lsb).toNat = (msb.toNat * 256 + lsb.toNat) / 2 := by
  have h : (rtd16 msb lsb).toNat = msb.toNat * 256 + lsb.toNat := by
    have hm := msb.isLt
    have hl := lsb.isLt
    have e : (msb.setWidth 16 <<< 8 : BitVec 16).toNat = 2 ^ 8 * msb.toNat := by
      simp [BitVec.toNat_shiftLeft, Nat.shiftLeft_eq]
      omega
    rw [rtd16, BitVec.toNat_or, e, BitVec.toNat_setWidth, Nat.mod_eq_of_lt (by omega),
      ← Nat.two_pow_add_eq_or_of_lt lsb.isLt]
    omega
  rw [adcCode, BitVec.toNat_ushiftRight, h, Nat.shiftRight_eq_div_pow, Nat.pow_one]

theorem decodeBank_bytes (b : Nat → Byte) :
    decodeBank ((List.range 8).map b) =
      some ⟨resistanceOf float (((b 1).toNat * 256 + (b 2).toNat) / 2), b 7⟩ := by
  rw [← adcCode_toNat]; rfl

theorem completes_lock {s : State} (h : s.lock = .free) :
    Completes s [.lock] (State.skip { s with lock := .held s.caller.id } 1) := by
  refine ⟨{ s with lock := .held s.caller.id }, ?_, rfl⟩
  simp only [State.perform, State.takeLock, h]

theorem completes_delay (s : State) :
    Completes s [.delay] (State.skip { s with trace := s.trace ++ s.events [.delay] } 1) := ⟨_, rfl, rfl⟩

theorem completes_bank (s : State) :
    Completes s [.bank] (State.skip { s with caller := { s.caller with bank := s.caller.out } } 1) := ⟨_, rfl, rfl⟩

theorem completes_unlock {s : State} (h : s.lock = .held s.caller.id) :
    Completes s [.unlock] (State.skip { s with lock := .free } 1) := ⟨_, if_pos h, rfl⟩

theorem completes_decodeCount {s : State} {b : Nat → Byte} (h : s.caller.bank = (List.range 8).map b) :
    Completes s [.decode, .count] (State.skip { s with
      good := s.good + (if b 7 = 0 then 1 else 0)
      bad := s.bad + (if b 7 = 0 then 0 else 1)
      caller := { s.caller with
        reading := some ⟨resistanceOf float (((b 1).toNat * 256 + (b 2).toNat) / 2), b 7⟩ } } 2) := by
  generalize hr : resistanceOf float (((b 1).toNat * 256 + (b 2).toNat) / 2) = r
  refine ⟨{ s with caller := { s.caller with reading := some ⟨r, b 7⟩ } }, ?_,
    { s.skip 1 with
      good := s.good + (if b 7 = 0 then 1 else 0)
      bad := s.bad + (if b 7 = 0 then 0 else 1)
      caller := { (s.skip 1).caller with reading := some ⟨r, b 7⟩ } }, ?_, ?_⟩
  · simp only [State.perform, State.decodeStep, h, decodeBank_bytes, hr]
  · simp [State.perform, State.count, goodStatus, State.skip, State.advance]
  · simp [Completes, State.advance, State.skip, Function.comp_def]

theorem completes_acquisition {s : State} (h : s.configured) (hl : s.lock = .free) (ho : s.caller.out = []) :
    Completes s acquisition (State.skip { s with
      answers := s.answers.drop 64
      samples := s.samples + 64
      pinCs := some .high
      pinClk := some .low
      pinSdo := some .low
      trace := s.trace ++ s.events (acquisitionTokens (s.levels 64))
      good := s.good + (if s.byteIn 7 = 0 then 1 else 0)
      bad := s.bad + (if s.byteIn 7 = 0 then 0 else 1)
      caller := { s.caller with
        acc := s.byteIn 7
        out := s.bytesIn 8
        bank := s.bytesIn 8
        reading := some s.readingIn } } 290) := by
  have k1 : Completes s ([.lock] ++ writeFrameSteps (writeAddress 0x00) Config.configTrigger ++ [.delay])
      (State.skip { s with
        lock := .held s.caller.id
        pinCs := some .high
        pinClk := some .low
        pinSdo := some .low
        trace := s.trace ++ s.events (writeFrameTokens 0x80 0xB2 ++ [.delay]) } 52) := by
    refine (((completes_lock hl).append (completes_writeFrame (by exact h) _ _)).append (completes_delay _)).to ?_
    cases hq : s.caller.seq <;> simp [State.skip, State.events, hq] <;> exact ⟨rfl, rfl⟩
  have k2 : Completes s ([.lock] ++ writeFrameSteps (writeAddress 0x00) Config.configTrigger ++ [.delay] ++
        readFrameSteps (readAddress 0x00) Config.nregs)
      (State.skip { s with
        lock := .held s.caller.id
        answers := s.answers.drop 64
        samples := s.samples + 64
        pinCs := some .high
        pinClk := some .low
        pinSdo := some .low
        trace := s.trace ++ s.events (acquisitionTokens (s.levels 64))
        caller := { s.caller with acc := s.byteIn 7, out := s.bytesIn 8 } } 286) := by
    refine (k1.append (completes_readFrame (by exact h) _ _)).to ?_
    cases hq : s.caller.seq <;>
      simp [State.skip, State.events, State.levels, State.byteIn, State.bytesIn, acquisitionTokens, hq, ho, Config.nregs,
        readAddress, Level.ofBit]
  refine (((k2.append (completes_bank _)).append (completes_unlock rfl)).append
    (completes_decodeCount (b := s.byteIn) rfl)).to ?_
  cases hq : s.caller.seq <;> simp [State.skip, hq, hl, State.readingIn, State.bytesIn]

/-! ### Whole operations -/

theorem operate_ready {s : State} (h : s.life = .ready) (hq : s.caller.seq = none) (i : Instr) (hi : i ≠ .init)
    (xs : List Micro) : s.operate i xs = (s.accept i).performAll xs := by
  simp [State.operate, hq, admission, h, hi]

end Sys2Proof.Machine
end

