-- ==== Sys2Proof/Laws/PerInstr.lean ====
section
/-! SUPPORT. What is said of every instruction as syntax, with one lemma per constructor: its encoding is a word of its
own row of spec/opcode_table.json (R82, R83, R90, R98). -/

namespace Sys2Proof.Laws.TableRow

/-- The encoding of an instruction is a word of the row of its mnemonic: a command word matches that row of the table, a
write frame starts with 1 (R82), and a read frame starts with 0 where it is well formed (R83). -/
def Statement (i : Instr) : Prop :=
  match encode i with
  | .cmd w => ∃ r ∈ cmdTable, r.mnemonic = i.mnemonic ∧ r.matches w = true
  | .frameW w => i.mnemonic = "WRITE_FRAME" ∧ w.getLsbD 15 = true
  | .frameR w _ => i.mnemonic = "READ_FRAME" ∧ (i.wf = true → w.getLsbD 7 = false)

/-- The mask of a row with two operands keeps the operation code and nothing else (R90). -/
theorem cmdWord_and_op (op a b : Byte) : cmdWord op a b &&& 0xFF0000 = cmdWord op 0 0 := by
  apply BitVec.eq_of_getLsbD_eq
  intro i hi
  interval_cases i <;> simp [cmdWord]

/-- The mask of a row with one operand keeps the operation code and the unused byte (R90). -/
theorem cmdWord_and_op_b (op a b : Byte) : cmdWord op a b &&& 0xFF00FF = cmdWord op 0 b := by
  apply BitVec.eq_of_getLsbD_eq
  intro i hi
  interval_cases i <;> simp [cmdWord]

theorem init : Statement .init := ⟨⟨"INIT", 0x010000, 0xFFFFFF⟩, by decide, rfl, rfl⟩

theorem sendbyte (byte : Byte) : Statement (.sendbyte byte) :=
  ⟨⟨"SENDBYTE", 0x100000, 0xFF00FF⟩, by decide, rfl, by rw [CmdRow.matches, cmdWord_and_op_b]; rfl⟩

theorem recvbyte : Statement .recvbyte := ⟨⟨"RECVBYTE", 0x110000, 0xFFFFFF⟩, by decide, rfl, rfl⟩

theorem writereg (addr value : Byte) : Statement (.writereg addr value) :=
  ⟨⟨"WRITEREG", 0x120000, 0xFF0000⟩, by decide, rfl, by rw [CmdRow.matches, cmdWord_and_op]; rfl⟩

theorem readregs (startAddr count : Byte) : Statement (.readregs startAddr count) :=
  ⟨⟨"READREGS", 0x130000, 0xFF0000⟩, by decide, rfl, by rw [CmdRow.matches, cmdWord_and_op]; rfl⟩

theorem acquire : Statement .acquire := ⟨⟨"ACQUIRE", 0x200000, 0xFFFFFF⟩, by decide, rfl, rfl⟩

theorem tempExact : Statement .tempExact := ⟨⟨"TEMP_EXACT", 0x300000, 0xFFFFFF⟩, by decide, rfl, rfl⟩

theorem tempPoly3 : Statement .tempPoly3 := ⟨⟨"TEMP_POLY3", 0x310000, 0xFFFFFF⟩, by decide, rfl, rfl⟩

theorem tempPoly4 : Statement .tempPoly4 := ⟨⟨"TEMP_POLY4", 0x320000, 0xFFFFFF⟩, by decide, rfl, rfl⟩

theorem tempPoly5 : Statement .tempPoly5 := ⟨⟨"TEMP_POLY5", 0x330000, 0xFFFFFF⟩, by decide, rfl, rfl⟩

theorem close : Statement .close := ⟨⟨"CLOSE", 0x7F0000, 0xFFFFFF⟩, by decide, rfl, rfl⟩

theorem writeFrame (idx : BitVec 7) (value : Byte) : Statement (.writeFrame idx value) :=
  ⟨rfl, by simp [frameWordW]⟩

theorem readFrame (startAddr count : Byte) : Statement (.readFrame startAddr count) :=
  ⟨rfl, by simp [Instr.wf]⟩

end Sys2Proof.Laws.TableRow
end

