-- ==== Sys2Proof/Laws/Step.lean ====
section
/-! SUPPORT. What a step can do, said once: which caller is served, and the cases of serving it. -/

namespace Sys2Proof.Machine

/-! ### Serving a caller -/

theorem State.focus_callers_perm (s : State) (k : Nat) : (s.focus k).callers.Perm s.callers := by
  unfold State.focus
  split
  · rename_i c h
    obtain ⟨hk, rfl⟩ := List.getElem?_eq_some_iff.1 h
    exact List.getElem_cons_eraseIdx_perm hk
  · exact List.Perm.refl _

theorem State.focus_zero (s : State) : s.focus 0 = s := rfl

/-- `u` is `s` with a caller served: nothing else differs but the count of choices. -/
structure Serves (s u : State) : Prop where
  perm : u.callers.Perm s.callers
  rest : { s with caller := u.caller, others := u.others, turn := u.turn } = u

theorem Serves.refl (s : State) : Serves s s := ⟨List.Perm.refl _, rfl⟩

theorem serves_focus (s : State) (k : Nat) : Serves s (s.focus k) := by
  refine ⟨s.focus_callers_perm k, ?_⟩
  unfold State.focus
  split <;> rfl

theorem serves_of_choose {s u : State} (h : s.choose = some u) : Serves s u := by
  unfold State.choose at h
  split at h
  · cases h
  · cases h; exact serves_focus s _
  · cases h
    refine ⟨State.focus_callers_perm { s with turn := s.turn + 1 } _, ?_⟩
    have := (serves_focus { s with turn := s.turn + 1 }
      (s.candidates.getD (Config.schedule s.turn % s.candidates.length) 0)).rest
    generalize State.focus _ _ = v at *
    rw [← this]

/-- A step serves the caller chosen. -/
theorem step_of_choose {s u : State} (h : s.choose = some u) : step s = u.serve exec := by
  simp only [step, State.stepWith, h]

/-- The cases of a step that gives a next state. -/
inductive StepCase (t u : State) : Prop where
  /-- Nothing can move, or the served caller waits. -/
  | idle (h : t = u)
  /-- The next step of the operation in progress. -/
  | resume (q : Seq) (m : Micro) (v : State) (hq : u.caller.seq = some q) (hm : q.next = some m)
      (hv : u.perform m = .done v) (ht : t = v.advance)
  /-- An illegal word is refused. -/
  | illegal (w : PortWord) (rest : List PortWord) (e : DecodeError) (hq : u.caller.seq = none)
      (hp : u.caller.port = w :: rest) (hd : decode w = .error e)
      (ht : t = State.refuse { u with caller := { u.caller with port := rest } } .illegalCommand)
  /-- An operation is performed as one step. -/
  | whole (w : PortWord) (rest : List PortWord) (i : Instr) (hq : u.caller.seq = none)
      (hp : u.caller.port = w :: rest) (hd : decode w = .ok i) (ha : u.alone = true ∨ i = .init)
      (ht : exec i { u with caller := { u.caller with port := rest } } = .next t)
  /-- An operation is refused by the lifecycle before it begins. -/
  | refused (w : PortWord) (rest : List PortWord) (i : Instr) (r : RefuseReason) (hq : u.caller.seq = none)
      (hp : u.caller.port = w :: rest) (hd : decode w = .ok i) (hi : i ≠ .init) (hr : admission i u.life = some r)
      (ht : t = State.refuse { u with caller := { u.caller with port := rest } } r)
  /-- An operation is accepted, to be performed step by step. -/
  | accepted (w : PortWord) (rest : List PortWord) (i : Instr) (hq : u.caller.seq = none)
      (hp : u.caller.port = w :: rest) (hd : decode w = .ok i) (hi : i ≠ .init) (hr : admission i u.life = none)
      (ht : t = State.accept { u with caller := { u.caller with port := rest } } i)

/-- What a step can do. -/
theorem step_cases {s t : State} (h : step s = .next t) : ∃ u, Serves s u ∧ StepCase t u := by
  unfold step State.stepWith at h
  split at h
  · cases h; exact ⟨s, Serves.refl s, .idle rfl⟩
  · rename_i u hu
    refine ⟨u, serves_of_choose hu, ?_⟩
    unfold State.serve at h
    split at h
    · rename_i q hq
      unfold State.resume at h
      split at h
      · cases h
      · rename_i m hm
        split at h
        · rename_i v hv; cases h; exact .resume q m v hq hm hv rfl
        · cases h; exact .idle rfl
        · cases h
    · rename_i hq
      split at h
      · cases h; exact .idle rfl
      · rename_i w rest hp
        dsimp only at h
        split at h
        · rename_i e he; cases h; exact .illegal w rest e hq hp he rfl
        · rename_i i hd
          split at h
          · rename_i ha
            simp only [Bool.or_eq_true, decide_eq_true_eq] at ha
            exact .whole w rest i hq hp hd ha h
          · rename_i ha
            simp only [Bool.or_eq_true, decide_eq_true_eq, not_or] at ha
            unfold State.begin at h
            split at h
            · rename_i r hr; cases h; exact .refused w rest i r hq hp hd ha.2 hr rfl
            · rename_i hr; cases h; exact .accepted w rest i hq hp hd ha.2 hr rfl

/-! ### Performing an operation as a whole -/

/-- Where performing steps leads, if to a next state: some of them complete, and either they are all, or the caller
waits at the next. -/
theorem performAll_cases {xs : List Micro} {s t : State} (h : s.performAll xs = .next t) :
    ∃ ys zs, xs = ys ++ zs ∧ Completes s ys t ∧ (zs = [] ∨ ∃ m ms, zs = m :: ms ∧ t.perform m = .wait) := by
  induction xs generalizing s with
  | nil => cases h; exact ⟨[], [], rfl, rfl, .inl rfl⟩
  | cons m ms ih =>
    unfold State.performAll at h
    split at h
    · rename_i v hv
      obtain ⟨ys, zs, rfl, hc, hz⟩ := ih h
      exact ⟨m :: ys, zs, rfl, ⟨v, hv, hc⟩, hz⟩
    · rename_i hw; cases h; exact ⟨[], m :: ms, rfl, rfl, .inr ⟨m, ms, rfl, hw⟩⟩
    · cases h

/-- An operation's meaning performs its own steps. -/
theorem exec_eq_operate (i : Instr) (s : State) : exec i s = s.operate i (steps i) := by cases i <;> rfl

/-- What an operation performed as one step can do. -/
theorem operate_cases {s t : State} {i : Instr} {xs : List Micro} (h : s.operate i xs = .next t) :
    s.caller.seq = none ∧
      ((∃ r, admission i s.life = some r ∧ t = s.refuse r) ∨
        (admission i s.life = none ∧ (s.accept i).performAll xs = .next t)) := by
  unfold State.operate at h
  split at h
  · cases h
  · rename_i hq
    split at h
    · rename_i r hr; cases h; exact ⟨hq, .inl ⟨r, hr, rfl⟩⟩
    · rename_i hr; exact ⟨hq, .inr ⟨hr, h⟩⟩

end Sys2Proof.Machine
end

