-- ==== Sys2Proof/Tests/Slice0.lean ====
section
/-! SUPPORT. Tests of the model against the vectors and words of spec/ (95_test_vectors.md and the encodings of
30_encoding.md, written out by hand), and one witness for the hypotheses of every statement that has some. -/

namespace Sys2Proof.Tests

open Sys2Proof.Machine

/-! ### Helpers -/

/-- Does an outcome give a next state of which `p` holds? -/
def leads (o : Host.Outcome State Fault Refusal) (p : State → Bool) : Bool :=
  match o with
  | .next t => p t
  | .fault _ => false
  | .refused _ => false

/-- A level per digit, 1 for `HIGH`. -/
def levels (bits : List Nat) : List Level := bits.map (fun b => Level.ofBit (b == 1))

/-- The machine after reset, with the next samples given. -/
def given (bits : List Nat) : State := { State.reset with answers := levels bits }

/-- The trace tokens past the seven setup events, as R14 writes them. -/
def traceText (s : State) : List String := (s.tokens.drop 7).map Token.text

/-- The bits driven on data-out past the setup events. -/
def sdo (s : State) : List Nat :=
  (s.tokens.drop 7).filterMap (fun t => match t with
    | .wr .sdo .high => some 1
    | .wr .sdo .low => some 0
    | _ => none)

/-- What the caller being served was returned since reset. -/
def returns (s : State) : List Result := s.caller.results.drop 1

/-- The 64 samples of vector A1, with the unread bytes of program P2 and the status byte given. -/
def bankBits (status : List Nat) : List Nat :=
  [1,0,1,1,0,0,1,0] ++ [0,1,1,0,0,1,0,0] ++ [0,0,0,0,0,0,0,0] ++ [1,1,1,1,1,1,1,1]
    ++ [1,1,1,1,1,1,1,1] ++ [0,0,0,0,0,0,0,0] ++ [0,0,0,0,0,0,0,0] ++ status

/-- The machine after `CLOSE`. -/
def closed : State := { State.reset with life := .closed }

/-- A second caller, waiting in `lock()` of an `ACQUIRE`. -/
def waiter : Caller := { Caller.idle 1 with seq := some ⟨.acquire, 0⟩ }

/-- Two callers acquire at once: one holds the lock, inside its trigger frame, with a temperature to follow; the other
waits. -/
def inFlight : State :=
  { State.reset with
    pinCs := some .low
    lock := .held 0
    trace := (setupTokens ++ [Token.wr .cs .low]).map (Event.mk 0)
    caller := { Caller.idle 0 with port := [.cmd 0x330000], seq := some ⟨.acquire, 2⟩ }
    others := [waiter] }

/-- A caller with the word given at its port, beside one that waits in `lock()`. -/
def contended (life : Life) (w : PortWord) : State :=
  { State.reset with
    life := life
    lock := .held 2
    caller := { Caller.idle 0 with port := [w] }
    others := [waiter] }

/-! ### Well-formedness -/

/-- R83: a read frame's first bit is 0; one whose first bit is 1 is refused as ill-formed. -/
theorem test_wf_readFrame : (Instr.readFrame 0x80 1).wf = false ∧ (Instr.readFrame 0xFF 8).wf = false ∧
    (Instr.readFrame 0x7F 255).wf = true := by decide

/-- R51, R94: `READREGS` with bit 7 set is performed as written, and is no ill-formed instruction. -/
theorem test_wf_readregs : (Instr.readregs 0x80 1).wf = true := by decide

/-! ### Decoding: the words of vector V10 and the patterns of R82 and R83 -/

theorem test_decode_init : decode (.cmd 0x010000) = .ok .init := by decide

theorem test_decode_sendbyte : decode (.cmd 0x10A500) = .ok (.sendbyte 0xA5) := by decide

theorem test_decode_recvbyte : decode (.cmd 0x110000) = .ok .recvbyte := by decide

theorem test_decode_writereg : decode (.cmd 0x1200B2) = .ok (.writereg 0x00 0xB2) := by decide

theorem test_decode_readregs : decode (.cmd 0x130008) = .ok (.readregs 0x00 8) := by decide

theorem test_decode_acquire : decode (.cmd 0x200000) = .ok .acquire := by decide

theorem test_decode_tempExact : decode (.cmd 0x300000) = .ok .tempExact := by decide

theorem test_decode_tempPoly3 : decode (.cmd 0x310000) = .ok .tempPoly3 := by decide

theorem test_decode_tempPoly4 : decode (.cmd 0x320000) = .ok .tempPoly4 := by decide

theorem test_decode_tempPoly5 : decode (.cmd 0x330000) = .ok .tempPoly5 := by decide

theorem test_decode_close : decode (.cmd 0x7F0000) = .ok .close := by decide

/-- The 16 bits of R142 on the wire, `1000 0000 1011 0010`, and `WRITEREG 0x03, 0xFF` of V4. -/
theorem test_decode_writeFrame : decode (.frameW 0b1000000010110010) = .ok (.writeFrame 0x00 0xB2) ∧
    decode (.frameW 0b1000001111111111) = .ok (.writeFrame 0x03 0xFF) := by decide

/-- The 8 bits of `READREGS 0x07, 1` of V4. -/
theorem test_decode_readFrame : decode (.frameR 0b00000111 1) = .ok (.readFrame 0x07 1) := by decide

/-- V10: illegal and reserved words; R82, R83: the first bit of a frame. -/
theorem test_decode_refuses : decode (.cmd 0x000000) = .error (.illegalOp 0x00) ∧
    decode (.cmd 0x340000) = .error (.illegalOp 0x34) ∧ decode (.cmd 0x110001) = .error (.reservedOperand 0x11) ∧
    decode (.cmd 0x10A501) = .error (.reservedOperand 0x10) ∧ decode (.cmd 0x200100) = .error (.reservedOperand 0x20) ∧
    decode (.frameW 0x7FFF) = .error .notAWriteFrame ∧ decode (.frameR 0x80 1) = .error .notAReadFrame := by decide

/-- R90, R82: three encodings with two operands. -/
theorem test_encode : encode (.writereg 0x03 0xFF) = .cmd 0x1203FF ∧ encode (.readregs 0x01 2) = .cmd 0x130102 ∧
    encode (.writeFrame 0x7F 0x00) = .frameW 0xFF00 := by decide

/-- The numbers of spec/opcode_table.json: a command word, a write frame, a read frame with no count bits. -/
theorem test_decodeTableWord : decodeTableWord 24 0x1200B2 = some (.writereg 0x00 0xB2) ∧
    decodeTableWord 16 0x80B2 = some (.writeFrame 0x00 0xB2) ∧ decodeTableWord 8 0x07 = some (.readFrame 0x07 0) ∧
    decodeTableWord 24 0x340000 = none ∧ decodeTableWord 12 0x10A = none := by decide

/-- R96, R97: the assembler's text, and the two pseudo-instructions. -/
theorem test_asm : (Instr.writereg 0x00 0xB2).asm = "WRITEREG 0, 178" ∧ Instr.tempDefault = .tempPoly5 ∧
    encode (Instr.temp .exact) = .cmd 0x300000 ∧ encode (Instr.temp .poly4) = .cmd 0x320000 := by decide

/-- R96, R97, V10: lines of text, in hexadecimal and in decimal, and text that names no operation. -/
theorem test_assemble : assemble "WRITEREG 0x00, 0xB2" = some (.writereg 0x00 0xB2) ∧
    assemble "READREGS 0x00, 8" = some (.readregs 0x00 8) ∧ assemble "SENDBYTE 0xA5" = some (.sendbyte 0xA5) ∧
    assemble "TEMP" = some .tempPoly5 ∧ assemble "TEMP POLY3" = some .tempPoly3 ∧ assemble "CLOSE" = some .close ∧
    assemble "SENDBYTE 256" = none ∧ assemble "SENDBYTE" = none ∧ assemble "HALT" = none := by decide +kernel

/-- What `Instr.asm` writes is read back, the two frames among it. -/
theorem test_assemble_asm : assemble (Instr.writereg 0x7F 0xFF).asm = some (.writereg 0x7F 0xFF) ∧
    assemble (Instr.writeFrame 0x7F 0x00).asm = some (.writeFrame 0x7F 0x00) ∧
    assemble (Instr.readFrame 0x07 1).asm = some (.readFrame 0x07 1) ∧
    assemble Instr.tempExact.asm = some .tempExact := by decide +kernel

/-! ### Layouts -/

/-- R33: the fields of the trigger byte 0xB2. -/
theorem test_trigger_fields : configFields Config.configTrigger =
    ⟨true, false, true, true, 0, true, false⟩ := by decide

/-- R58: the register map, and the address bytes of a write and of a read. -/
theorem test_address_map : writeAddress (registerIndex .config) = 0x80 ∧ writeAddress (registerIndex .lftLsb) = 0x86 ∧
    readAddress (registerIndex .faultStatus) = 0x07 ∧ isWriteAddress 0x83 = true ∧ addressIndex 0x83 = 3 := by decide

/-- V5: rows of the decode. -/
theorem test_adcCode : adcCode 0x64 0x00 = 12800 ∧ adcCode 0x64 0x01 = 12800 ∧ adcCode 0xFF 0xFF = 32767 ∧
    adcCode 0x3B 0xA7 = 7635 ∧ rtdFaultBit 0x64 0x01 = true := by decide

/-- V6: the flags of a status byte, and the good-read test on the whole byte. -/
theorem test_status : faultFlags 0xC4 = ⟨true, true, false, false, false, true⟩ ∧
    faultFlags 0x3C = ⟨false, false, true, true, true, true⟩ ∧ faultFlags 0x03 = ⟨false, false, false, false, false, false⟩ ∧
    goodStatus 0x00 = true ∧ goodStatus 0x01 = false ∧
    causes 0xC4 = [.highThresholdOpenCable, .lowThresholdShortCable, .overUnderVoltage] := by decide

/-! ### Arithmetic -/

/-- V5: resistances. -/
theorem test_resistance : resistanceOf float 12800 = 0x4064ff0000000000 ∧ resistanceOf float 1 = 0x3f8ae00000000000 ∧
    resistanceOf float 32767 = 0x407adfca40000000 := by decide +kernel

/-- T2: the intermediate values of R163, in binary64 (`t1`, `d1`, `den` as decimals of R163 read to the nearest). -/
theorem test_cvd_constants : cvdT1 float = Binary64.ofRat false 39083 100000 ∧
    cvdD1 float = Binary64.ofRat false 15274808890000002 100000000000000000 ∧
    cvdDen float = Binary64.ofRat true 11549999999999999 100000000000000000000 := by decide +kernel

/-- V5: the exact inverse at code 0, at 107.5 ohm and at code 32767. -/
theorem test_tExact : tExact float 0x0000000000000000 = some 0xc06edb8d81b604ee ∧
    tExact float 0x405ae00000000000 = some 0x40333ea1a4031af4 ∧
    tExact float 0x407adfca40000000 = some 0x408ee6563e14aeef := by decide +kernel

/-- V7: negative zero at `R0`, the last bits below `R0`, and `DomainFault` past the limit. U17, by the rules of binary64:
the discriminant of plus infinity is minus infinity, and minus infinity gives minus infinity. -/
theorem test_tExact_corners : tExact float (Binary64.ofRat false 100 1) = some 0x8000000000000000 ∧
    tExact float (resistanceOf float 1411) = some 0xc0694de7b852866d ∧
    tExact float (Binary64.ofRat false 761 1) = some 0x40a9ecc8b91e1caf ∧
    tExact float (Binary64.ofRat false 76125 100) = none ∧ tExact float (Binary64.ofRat false 1000 1) = none ∧
    tExact float 0x7ff0000000000000 = none ∧ tExact float 0xfff0000000000000 = some 0xfff0000000000000 := by
  decide +kernel

/-- V8: Horner, rows 1 to 4. -/
theorem test_horner :
    horner float 3 ![float.real 1, float.real 2, float.real 3, float.real 4] (float.real 2) = float.real 49 ∧
    horner float 4 ![float.real 5, float.real 0, float.real 0, float.real 0, float.real 1] (float.real 3) =
      float.real 86 ∧
    horner float 3 ![float.real 7, float.real 9, float.real 9, float.real 9] (float.real 0) = float.real 7 := by
  decide +kernel

/-- V8, row 3: alternating signs. -/
theorem test_horner_signs :
    horner float 5 ![float.neg (float.real 1), float.real 1, float.neg (float.real 1), float.real 1,
      float.neg (float.real 1), float.real 1] (float.real 2) = float.real 21 := by decide +kernel

/-! ### The instructions, one step each -/

/-- V9, P1: the setup events of `INIT` in the order of R180. -/
theorem test_init : leads (exec .init State.unbuilt) (fun t =>
    t.tokens.map Token.text = ["Mo(CS)", "Mo(CLK)", "Mo(SDO)", "Mi(SDI)", "S+", "K-", "D0"] ∧ t.life = .ready ∧
      t.good = 0 ∧ t.bad = 0) = true := by decide +kernel

/-- V9: a second `INIT` is refused, after `CLOSE` too. -/
theorem test_init_twice : leads (exec .init State.reset) (fun t =>
    t.refusals = [⟨0, .alreadyBuilt⟩] ∧ t.trace = State.reset.trace ∧ t.life = .ready) = true ∧
    leads (exec .init closed) (fun t => t.refusals = [⟨0, .alreadyBuilt⟩] ∧ t.life = .closed) = true := by
  decide +kernel

/-- V2: the trace of `SENDBYTE 0xA5`, which ends with data-out high. -/
theorem test_sendbyte : leads (exec (.sendbyte 0xA5) State.reset) (fun t =>
    traceText t = ["K+", "D1", "K-", "K+", "D0", "K-", "K+", "D1", "K-", "K+", "D0", "K-", "K+", "D0", "K-",
      "K+", "D1", "K-", "K+", "D0", "K-", "K+", "D1", "K-"] ∧ t.pinSdo = some .high ∧ t.pinClk = some .low) = true := by
  decide +kernel

/-- V9: before construction `SENDBYTE` is refused with no event. -/
theorem test_sendbyte_unbuilt : leads (exec (.sendbyte 0x00) State.unbuilt) (fun t =>
    t.refusals = [⟨0, .notReady⟩] ∧ t.trace = [] ∧ t.life = .unbuilt) = true := by decide +kernel

/-- R122: the example's samples give 0x64, and the trace samples within each high phase. -/
theorem test_recvbyte : leads (exec .recvbyte (given [0,1,1,0,0,1,0,0])) (fun t =>
    returns t = [.byte 0x64] ∧
    traceText t = ["K+", "Q0", "K-", "K+", "Q1", "K-", "K+", "Q1", "K-", "K+", "Q0", "K-", "K+", "Q0", "K-",
      "K+", "Q1", "K-", "K+", "Q0", "K-", "K+", "Q0", "K-"]) = true := by decide +kernel

/-- V3: the first sample is bit 7 and the last is bit 0; data-out and chip-select stay as they were. -/
theorem test_recvbyte_ends : leads (exec .recvbyte (given [1,0,0,0,0,0,0,0])) (fun t => returns t = [.byte 0x80]) = true ∧
    leads (exec .recvbyte (given [0,0,0,0,0,0,0,1])) (fun t =>
      returns t = [.byte 0x01] ∧ t.pinSdo = some .low ∧ t.pinCs = some .high) = true := by decide +kernel

/-- V4: `WRITEREG 0x03, 0xFF` and `WRITEREG 0x7F, 0x00` on data-out. -/
theorem test_writereg : leads (exec (.writereg 0x03 0xFF) State.reset) (fun t =>
      sdo t = [1,0,0,0,0,0,1,1, 1,1,1,1,1,1,1,1] ∧ (traceText t).length = 50 ∧ t.pinSdo = some .high) = true ∧
    leads (exec (.writereg 0x7F 0x00) State.reset) (fun t => sdo t = [1,1,1,1,1,1,1,1, 0,0,0,0,0,0,0,0]) = true := by
  decide +kernel

/-- V4: `WRITEREG 0x80, 0xB2` is `WRITEREG 0x00, 0xB2` on the wire, framed by `S-` and `S+`. -/
theorem test_writereg_marker : leads (exec (.writereg 0x80 0xB2) State.reset) (fun t =>
    sdo t = [1,0,0,0,0,0,0,0, 1,0,1,1,0,0,1,0] ∧ (traceText t).head? = some "S-" ∧
      (traceText t).getLast? = some "S+" ∧ returns t = [.done]) = true := by decide +kernel

/-- V4: `READREGS 0x07, 1` and `READREGS 0x01, 2`. -/
theorem test_readregs : leads (exec (.readregs 0x07 1) (given [1,1,0,0,0,1,0,0])) (fun t =>
      sdo t = [0,0,0,0,0,1,1,1] ∧ (traceText t).length = 50 ∧ returns t = [.bytes [0xC4]]) = true ∧
    leads (exec (.readregs 0x01 2) (given [0,1,1,0,0,1,0,0, 0,0,0,0,0,0,0,0])) (fun t =>
      (traceText t).length = 74 ∧ returns t = [.bytes [0x64, 0x00]]) = true := by decide +kernel

/-- V4: `READREGS 0x00, 0` returns nothing in 26 events; `READREGS 0x80, 1` sends its address raw. -/
theorem test_readregs_corners : leads (exec (.readregs 0x00 0) State.reset) (fun t =>
      (traceText t).length = 26 ∧ returns t = [.bytes []] ∧ t.pinCs = some .high) = true ∧
    leads (exec (.readregs 0x80 1) (given [0,0,0,0,0,0,0,0])) (fun t =>
      sdo t = [1,0,0,0,0,0,0,0] ∧ returns t = [.bytes [0x00]]) = true := by decide +kernel

/-- A1: 269 events, the reading, and the counters. -/
theorem test_acquire : leads (exec .acquire (given (bankBits [0,0,0,0,0,0,0,0]))) (fun t =>
    returns t = [.reading ⟨0x4064ff0000000000, 0x00⟩] ∧ (traceText t).length = 269 ∧ t.good = 1 ∧ t.bad = 0 ∧
      t.lock = .free ∧ t.pinCs = some .high ∧ t.pinClk = some .low ∧ t.pinSdo = some .low) = true := by decide +kernel

/-- P3, S2: a faulted read returns its resistance all the same and counts as bad; the trigger goes out before it. -/
theorem test_acquire_faulted : leads (exec .acquire (given (bankBits [1,1,0,0,0,1,0,0]))) (fun t =>
    returns t = [.reading ⟨0x4064ff0000000000, 0xC4⟩] ∧ t.good = 0 ∧ t.bad = 1 ∧
      sdo t = [1,0,0,0,0,0,0,0, 1,0,1,1,0,0,1,0, 0,0,0,0,0,0,0,0] ∧ (traceText t)[50]? = some "T") = true := by
  decide +kernel

/-- T2: `TEMP_EXACT` on scenario A. -/
theorem test_tempExact : leads (exec .tempExact (given (bankBits [0,0,0,0,0,0,0,0]))) (fun t =>
    returns t = [.temperature 0x406653f1ee2488c6 0x00] ∧ t.good = 1 ∧ (traceText t).length = 269) = true := by
  decide +kernel

/-- R160, V11: a polynomial temperature counts as an acquisition does, here with status 0x01: a bad read. -/
theorem test_tempPoly3 : leads (exec .tempPoly3 (given (bankBits [0,0,0,0,0,0,0,1]))) (fun t =>
    (traceText t).length = 269 ∧ t.good = 0 ∧ t.bad = 1 ∧ t.lock = .free) = true := by decide +kernel

/-- R160: the outgoing bits and the settle event of a temperature are those of an acquisition. -/
theorem test_tempPoly4 : leads (exec .tempPoly4 (given (bankBits [0,0,0,0,0,0,0,0]))) (fun t =>
    sdo t = [1,0,0,0,0,0,0,0, 1,0,1,1,0,0,1,0, 0,0,0,0,0,0,0,0] ∧ (traceText t)[50]? = some "T" ∧ t.good = 1) =
      true := by decide +kernel

/-- R160: the last step of `TEMP_POLY5` returns the polynomial of the resistance with the status unchanged. -/
theorem test_tempPoly5 (r : Binary64) (status : Byte) :
    State.perform { State.reset with caller := { Caller.idle 0 with reading := some ⟨r, status⟩ } }
      (.returnTemperature .poly5) =
    .done { State.reset with
      caller := { Caller.idle 0 with results := [.temperature (horner float 5 Config.poly5C r) status] } } := rfl

/-- V9: `CLOSE` with `GOOD = 2`, `BAD = 1`. -/
theorem test_close : leads (exec .close { State.reset with good := 2, bad := 1 }) (fun t =>
    returns t = [.counters 2 1] ∧ t.life = .closed ∧ traceText t = []) = true := by decide +kernel

/-- V9: a second `CLOSE` is refused; one before construction too. -/
theorem test_close_refused :
    leads (exec .close closed) (fun t => t.refusals = [⟨0, .closed⟩] ∧ t.life = .closed) = true ∧
    leads (exec .close State.unbuilt) (fun t => t.refusals = [⟨0, .notReady⟩] ∧ t.life = .unbuilt) = true := by
  decide +kernel

/-- R82: the write frame `1 0000011 11111111` is `WRITEREG 0x03, 0xFF` on the wire. -/
theorem test_writeFrame : leads (exec (.writeFrame 0x03 0xFF) State.reset) (fun t =>
    sdo t = [1,0,0,0,0,0,1,1, 1,1,1,1,1,1,1,1] ∧ (traceText t).length = 50) = true := by decide +kernel

/-- R83: the read frame `00000111` with one byte in is `READREGS 0x07, 1`. -/
theorem test_readFrame : leads (exec (.readFrame 0x07 1) (given [1,1,0,0,0,1,0,0])) (fun t =>
    sdo t = [0,0,0,0,0,1,1,1] ∧ returns t = [.bytes [0xC4]] ∧ (traceText t).length = 50) = true := by decide +kernel

/-! ### Steps -/

/-- V9: a word placed at the port is run by the very next step. -/
theorem test_step_placed : leads (step (State.reset.withFetchWord 24 0x1200B2)) (fun t =>
    sdo t = [1,0,0,0,0,0,0,0, 1,0,1,1,0,0,1,0] ∧ t.caller.port = []) = true := by decide +kernel

/-- V10: the illegal word 0x340000 is refused by the step. -/
theorem test_step_illegal : leads (step (State.reset.issue (.cmd 0x340000))) (fun t =>
    t.refusals = [⟨0, .illegalCommand⟩] ∧ t.trace = State.reset.trace) = true := by decide +kernel

/-- P5: a caller whose `ACQUIRE` finds the lock held takes no pin step. -/
theorem test_step_waits : leads (exec .acquire { State.reset with lock := .held 1 }) (fun t =>
    traceText t = [] ∧ t.caller.seq = some ⟨.acquire, 0⟩ ∧ t.lock = .held 1) = true := by decide +kernel

/-- R61: with another caller at work an operation is only accepted, and its next step is one pin event. -/
theorem test_step_interleaves :
    leads (step (contended .ready (.cmd 0x10A500))) (fun t => traceText t = [] ∧ t.caller.seq = some ⟨.sendbyte 0xA5, 0⟩) = true ∧
    leads (step { State.reset with
      lock := .held 2
      caller := { Caller.idle 0 with seq := some ⟨.sendbyte 0xA5, 1⟩ }
      others := [waiter] }) (fun t => traceText t = ["D1"] ∧ t.caller.seq = some ⟨.sendbyte 0xA5, 2⟩) = true := by
  decide +kernel

/-- R27: the sequencer position of `READREGS 0x00, 8` after the address byte and one high clock: bit 7 of byte 1 is to
be sampled. -/
theorem test_sequencer : (Seq.byteIndex ⟨.readregs 0x00 8, 27⟩, Seq.bitIndex ⟨.readregs 0x00 8, 27⟩,
    Seq.phase ⟨.readregs 0x00 8, 27⟩) = (1, 7, some 1) := by decide +kernel

/-! ### Witnesses: for every statement with hypotheses, a state and operands that meet them -/

/-- `DecodeOfEncode`, at the ends of the operands' ranges. -/
theorem witness_wf : (Instr.readFrame 0x7F 0xFF).wf = true ∧ (Instr.readregs 0xFF 0xFF).wf = true := by decide

/-- `EncodeOfDecode`, one word of each format; `CommandWordsAreTheTableRows`, its third clause. -/
theorem witness_decodes : decode (.cmd 0x12FFFF) = .ok (.writereg 0xFF 0xFF) ∧
    decode (.frameW 0xFFFF) = .ok (.writeFrame 0x7F 0xFF) ∧ decode (.frameR 0x7F 0xFF) = .ok (.readFrame 0x7F 0xFF) ∧
    decodeCmd 0x7F0000 = .ok .close := by decide

/-- `SendbyteSendsMsbFirst`, `RecvbyteAssemblesMsbFirst`, `WriteregSendsOneFrame`, `WriteregSendsTheWriteFrame`,
`WriteregIgnoresAddressBitSeven`, `ReadregsReturnsInRequestOrder`, `WriteFrameIsSixteenBits`,
`ReadFrameIsEightBitsOutThenBytesIn`. -/
theorem witness_ready : State.reset.Ready := by decide

/-- `AcquireReturnsTheReading`, `CountersAfterManyAcquisitions`, `TempExactReturnsTheInverse`,
`TempPoly3ReturnsHorner`, `TempPoly4ReturnsHorner`, `TempPoly5ReturnsHorner`, `StrategyIsNotOnThePins`. -/
theorem witness_ready_free : State.reset.Ready ∧ State.reset.lock = .free := by decide

/-- `OneStepIsManyPinSteps`. -/
theorem witness_alone : State.reset.Ready ∧ State.reset.alone = true ∧ State.reset.lock = .free ∧
    Instr.acquire ≠ .init := by decide

/-- `ReadingDependsOnItsSamplesOnly`: two states that differ in counters, pins and what was returned. -/
theorem witness_same_samples : State.reset.Ready ∧
    State.Ready { State.reset with good := 5, pinSdo := some .high, trace := [] } ∧ State.reset.lock = .free ∧
    State.reset.levels 64 = State.levels { State.reset with good := 5, pinSdo := some .high, trace := [] } 64 :=
  ⟨by decide, by decide, rfl, rfl⟩

/-- `StepRunsTheDecodedInstruction`. -/
theorem witness_step_decodes :
    (State.reset.issue (.cmd 0x10A500)).caller.seq = none ∧
    (State.reset.issue (.cmd 0x10A500)).caller.port = [.cmd 0x10A500] ∧
    decode (.cmd 0x10A500) = .ok (.sendbyte 0xA5) ∧ (State.reset.issue (.cmd 0x10A500)).alone = true := by decide

/-- `StepRunsThePlacedWord`, a word of each length. -/
theorem witness_placed : decodeTableWord 24 0x7F0000 = some .close ∧
    decodeTableWord 16 0xFFFF = some (.writeFrame 0x7F 0xFF) ∧ decodeTableWord 8 0x7F = some (.readFrame 0x7F 0) := by
  decide

/-- `IllegalWordIsRefused`: an illegal word and no other caller at work, a reserved one before construction. -/
theorem witness_illegal : (State.reset.issue (.cmd 0x340000)).choose = some (State.reset.issue (.cmd 0x340000)) ∧
    (State.reset.issue (.cmd 0x340000)).caller.seq = none ∧
    (State.reset.issue (.cmd 0x340000)).caller.port = [.cmd 0x340000] ∧
    (State.unbuilt.issue (.cmd 0x7F0001)).choose = some (State.unbuilt.issue (.cmd 0x7F0001)) ∧
    decode (.cmd 0x340000) = .error (.illegalOp 0x34) ∧ decode (.cmd 0x7F0001) = .error (.reservedOperand 0x7F) := by
  decide +kernel

/-- `IllegalWordIsRefused`: an ill-formed frame while another caller is at work. -/
theorem witness_illegal_contended : ∃ u : State, (contended .ready (.frameR 0xFF 0)).choose = some u ∧
    u.caller.seq = none ∧ u.caller.port = [.frameR 0xFF 0] ∧ decode (.frameR 0xFF 0) = .error .notAReadFrame ∧
    u.alone = false := ⟨_, rfl, rfl, rfl, rfl, rfl⟩

/-- `ContendedWordIsAcceptedOrRefused`, its first three clauses: a word on a ready, an unbuilt and a closed instance. -/
theorem witness_contended_word (life : Life) : ∃ u : State, (contended life (.cmd 0x7F0000)).choose = some u ∧
    u.alone = false ∧ u.caller.seq = none ∧ u.caller.port = [.cmd 0x7F0000] ∧
    decode (.cmd 0x7F0000) = .ok .close ∧ Instr.close ≠ .init ∧ u.life = life := by
  refine ⟨contended life (.cmd 0x7F0000), ?_, rfl, rfl, rfl, by decide, by decide, rfl⟩
  cases life <;> rfl

/-- `ContendedWordIsAcceptedOrRefused`, its last clause: `INIT` before construction, another caller's word waiting. -/
theorem witness_contended_init : ∃ s u : State, s.choose = some u ∧ u.alone = false ∧ u.caller.seq = none ∧
    u.caller.port = [.cmd 0x010000] ∧ decode (.cmd 0x010000) = .ok .init :=
  ⟨contended .unbuilt (.cmd 0x010000), _, rfl, rfl, rfl, rfl, by decide⟩

/-- `ContendedStepIsAtMostOnePinEvent`, its first case: an operation in progress. -/
theorem witness_contended_progress : ∃ s t u : State, step s = .next t ∧ s.choose = some u ∧
    u.caller.seq.isSome = true :=
  ⟨{ State.reset with caller := { Caller.idle 0 with seq := some ⟨.sendbyte 0xA5, 0⟩ } }, _, _, rfl, rfl, rfl⟩

/-- `ContendedStepIsAtMostOnePinEvent`, its second case: an operation issued while another caller is at work. -/
theorem witness_contended_issue : ∃ s t u : State, step s = .next t ∧ s.choose = some u ∧ u.alone = false ∧
    ∀ w rest, u.caller.port = w :: rest → decode w ≠ .ok .init := by
  refine ⟨contended .ready (.cmd 0x10A500), _, _, rfl, rfl, rfl, ?_⟩
  intro w rest h
  cases h
  decide

/-- `InitBuildsTheInstance`, and `OperationsAreRefusedOutsideReady` before construction. -/
theorem witness_unbuilt : State.unbuilt.life = .unbuilt ∧ State.unbuilt.caller.seq = none ∧ Instr.close ≠ .init := by
  decide

/-- `OperationsAreRefusedOutsideReady` after `CLOSE`, and `SecondInitIsRefused` there. -/
theorem witness_closed : closed.life = .closed ∧ closed.caller.seq = none ∧ Instr.acquire ≠ .init := by decide

/-- `SecondInitIsRefused` on a ready instance, and `CloseReportsTheCounters`. -/
theorem witness_close : State.reset.life = .ready ∧ State.reset.caller.seq = none ∧ State.reset.lock = .free ∧
    ∀ c ∈ State.reset.others, c.busy = false := by decide

/-- `CloseReportsTheCounters`, another caller waiting in its own `CLOSE`. -/
theorem witness_close_both : ∃ s : State, s.life = .ready ∧ s.caller.seq = none ∧ s.lock = .free ∧
    (∀ c ∈ s.others, c.busy = false) ∧ ∃ c ∈ s.others, c.seq = some ⟨.close, 0⟩ :=
  ⟨{ State.reset with others := [{ Caller.idle 1 with seq := some ⟨.close, 0⟩ }] }, by decide⟩

/-- `CloseWaits`, its first case: the lock is held. -/
theorem witness_close_locked : State.life { State.reset with lock := .held 1 } = .ready ∧
    State.lock { State.reset with lock := .held 1 } ≠ .free := by decide

/-- `CloseWaits`, its second case: another caller's operation is in progress. -/
theorem witness_close_busy : State.life { State.reset with others := [waiter] } = .ready ∧
    ∃ c ∈ State.others { State.reset with others := [waiter] }, ∃ q, c.seq = some q ∧ q.op ≠ .close :=
  ⟨rfl, waiter, by decide, _, rfl, by decide⟩

/-- `PinPrimitives`, its clauses with a precondition. -/
theorem witness_pins : State.reset.mode OutPin.cs.role = .out ∧ State.reset.mode OutPin.sdo.role = .out ∧
    State.reset.modeSdi = .input := by decide

/-- `LockAndUnlock`, each clause. -/
theorem witness_lock : State.reset.lock = .free ∧ State.lock { State.reset with lock := .held 1 } = .held 1 ∧
    State.lock { State.reset with lock := .held 0 } = .held State.reset.caller.id := by decide

/-- `AcquisitionWaitsForTheLock`. -/
theorem witness_waits : State.Ready { State.reset with lock := .held 1 } ∧ acquires .tempPoly5 = true ∧
    State.lock { State.reset with lock := .held 1 } = .held 1 := by decide

/-- `ResistanceIsExact`, `NoDomainFaultFromAnAcquisition`: the first and the last code. -/
theorem witness_code : 0 < 32768 ∧ 32767 < 32768 := by decide

/-- `SamplesStandInTheHighPhase`: the first sample of `RECVBYTE`. -/
theorem witness_sample : (steps .recvbyte)[2]? = some .sample := by decide

/-- `ArithmeticRoundsToNearestEven`: 1 and 3, whose quotient is not exact. -/
theorem witness_arithmetic : Binary64.isFinite (float.real 1) = true ∧ Binary64.isFinite (float.real 3) = true ∧
    Binary64.isFinite (Binary64.add (float.real 1) (float.real 3)) = true ∧
    Binary64.isFinite (Binary64.mul (float.real 1) (float.real 3)) = true ∧
    Binary64.isFinite (Binary64.div (float.real 1) (float.real 3)) = true ∧ Binary64.value (float.real 3) ≠ 0 := by
  decide +kernel

/-- `SquareRootRoundsToNearestEven`: 2, whose root is not exact. -/
theorem witness_sqrt : Binary64.isFinite (float.real 2) = true ∧ 0 ≤ Binary64.value (float.real 2) := by decide +kernel

/-- `StepKeepsTheInvariant`, `StepNeverStops`, `CountersNeverDecrease`, `ModesAndLifeMoveOnce`. -/
theorem witness_inv : Safety.Inv inFlight ∧ inFlight.life ≠ .unbuilt ∧ ∃ t, step inFlight = .next t := by
  refine ⟨⟨by decide, ⟨?_, ?_⟩, ⟨by decide, rfl, rfl, rfl⟩, ?_⟩, by decide, _, rfl⟩
  · exact ⟨inFlight.caller, by decide, rfl, by decide +kernel⟩
  · decide +kernel
  · intro c hc
    simp only [State.callers, inFlight, List.mem_cons, List.not_mem_nil, or_false] at hc
    rcases hc with rfl | rfl
    · exact ⟨by decide, by decide +kernel, by decide +kernel, by decide +kernel, by decide +kernel⟩
    · exact ⟨by decide, by decide +kernel, by decide, by decide, by decide⟩

/-- `StepKeepsTheBusIdle`, its first clause: chip-select is low because the holder is inside its frame. -/
theorem witness_busIdle : Safety.BusIdle inFlight ∧ inFlight.pinCs ≠ some .high := by decide +kernel

/-- `StepKeepsTheBusIdle`, its second clause. -/
theorem witness_busIdle_quiet : Safety.BusIdle State.reset ∧ ∀ c ∈ State.reset.callers, c.seq = none := by decide

/-- `AcquisitionsNeverInterleave` (with `witness_inv`). -/
theorem witness_serial : (∀ c ∈ inFlight.callers, c.onlyAcquires) ∧ Safety.Serial setupTokens inFlight := by
  constructor
  · intro c hc
    simp only [State.callers, inFlight, List.mem_cons, List.not_mem_nil, or_false] at hc
    rcases hc with rfl | rfl
    · refine ⟨?_, ?_⟩
      · intro w hw i hi
        simp only [List.mem_singleton] at hw
        subst hw
        cases hi
        decide
      · intro q hq
        cases hq
        decide
    · refine ⟨?_, ?_⟩
      · intro w hw
        cases hw
      · intro q hq
        cases hq
        decide
  · exact ⟨[], by decide, inFlight.caller, by decide, rfl, _, rfl, List.replicate 64 .low, by decide, by decide +kernel⟩

/-- `RecordsAreNeverTakenBack` (with a record to keep), `StepTouchesOneCaller`. -/
theorem witness_step : ∃ t, step { inFlight with domainFault := true } = .next t := ⟨_, rfl⟩

/-- `NoStepRecordsADomainFault`: a caller about to convert the greatest resistance. -/
theorem witness_reading : ∃ s t : State,
    (∀ c ∈ s.callers, ∀ r, c.reading = some r → ∃ code < 32768, r.ohms = resistanceOf float code) ∧
    (∃ c ∈ s.callers, c.reading.isSome = true) ∧ s.domainFault = false ∧ step s = .next t := by
  refine ⟨{ State.reset with
    caller := { Caller.idle 0 with
      seq := some ⟨.tempPoly5, 290⟩
      reading := some ⟨resistanceOf float 32767, 0⟩ } }, _, ?_, ?_, rfl, rfl⟩
  · intro c hc r hr
    simp only [State.callers, State.reset, List.mem_cons, List.not_mem_nil, or_false] at hc
    subst hc
    exact ⟨32767, by decide, by rw [← Option.some.inj hr]⟩
  · exact ⟨_, List.mem_cons_self .., rfl⟩

/-- Over the reals the exact inverse has a value at every resistance the reference can give. -/
theorem tExact_real {R : ℝ} (h : R ≤ 430) : ∃ T, tExact realFloat R = some T := by
  refine ⟨_, if_neg ?_⟩
  simp only [realFloat, decide_eq_true_eq, not_lt, cvdDisc, cvdD1, cvdD2, Numerics.lit, Numerics.real, Config.cvdA,
    Config.cvdB, Config.r0]
  norm_num
  linarith

/-- `ExactInverseOverTheReals`, its clauses with a premise. -/
theorem witness_exact_inverse : (∃ T, tExact realFloat 0 = some T) ∧ (∃ U, tExact realFloat 430 = some U) ∧
    (0 : ℝ) < 430 := ⟨tExact_real (by norm_num), tExact_real le_rfl, by norm_num⟩

end Sys2Proof.Tests
end

section
/-! The machine with one caller at work: which caller a step serves, and what it then runs (O6, O7). -/

namespace Sys2Proof.Machine

theorem Caller.quiescent_iff (c : Caller) : c.quiescent = true ↔ c.seq = none ∧ c.port = [] := by
  simp [Caller.quiescent]

theorem State.canMove_of_quiescent {s : State} (h : s.caller.quiescent = true) : s.canMove = false := by
  obtain ⟨hq, hp⟩ := s.caller.quiescent_iff.1 h
  simp [State.canMove, hq, hp]

theorem State.canMove_of_issued {s : State} {w : PortWord} {rest : List PortWord} (hq : s.caller.seq = none)
    (hp : s.caller.port = w :: rest) : s.canMove = true := by
  simp [State.canMove, hq, hp]

theorem State.focus_succ_caller {s : State} {k : Nat} (h : k < s.others.length) :
    (s.focus (k + 1)).caller = s.others[k] := by
  simp [State.focus, State.callers, h]

/-- Where no other caller has anything issued or in progress, place 0 is the only one that can hold a candidate. -/
theorem State.candidates_of_alone {s : State} (ha : s.alone = true) (hm : s.canMove = true) : s.candidates = [0] := by
  have others_wait : ∀ k ∈ List.range s.others.length, (s.focus (k + 1)).canMove = false := by
    intro k hk
    have hk' : k < s.others.length := List.mem_range.1 hk
    apply State.canMove_of_quiescent
    rw [State.focus_succ_caller hk']
    exact List.all_eq_true.1 ha _ (List.getElem_mem hk')
  have rest_empty : ((List.range s.others.length).map Nat.succ).filter (fun k => (s.focus k).canMove) = [] := by
    rw [List.filter_eq_nil_iff]
    simpa using others_wait
  rw [State.candidates, State.callers, List.length_cons, List.range_succ_eq_map,
    List.filter_cons_of_pos (by rwa [State.focus_zero]), rest_empty]

theorem State.choose_of_alone {s : State} (ha : s.alone = true) (hm : s.canMove = true) : s.choose = some s := by
  simp [State.choose, State.candidates_of_alone ha hm, State.focus_zero]

theorem State.serve_of_alone {s : State} {w : PortWord} {rest : List PortWord} {i : Instr}
    (hq : s.caller.seq = none) (hp : s.caller.port = w :: rest) (hd : decode w = .ok i) (ha : s.alone = true) :
    s.serve exec = exec i (taken s rest) := by
  simp [State.serve, taken, hq, hp, hd, ha]

/-- Settles O6: the caller served is the only one that can move, and its word is performed as a whole. -/
theorem stepRunsTheDecodedInstruction : Obligations.StepRunsTheDecodedInstruction := by
  intro s w rest i hq hp hd ha
  calc step s = s.serve exec := step_of_choose (State.choose_of_alone ha (State.canMove_of_issued hq hp))
    _ = exec i (taken s rest) := State.serve_of_alone hq hp hd ha

theorem State.issue_alone (s : State) (w : PortWord) : (s.issue w).alone = true := by
  simp [State.issue, State.alone, Caller.quiescent]

theorem decodeTableWord_eq_some {nbits w : Nat} {i : Instr} (h : decodeTableWord nbits w = some i) :
    ∃ p, PortWord.ofNumber nbits w = some p ∧ decode p = .ok i := by
  unfold decodeTableWord at h
  split at h
  · cases h
  · rename_i p hp
    refine ⟨p, hp, ?_⟩
    cases hd : decode p with
    | error e => rw [hd] at h; cases h
    | ok j => rw [hd] at h; cases h; rfl

/-- Settles O7: a placed word is the only word issued, so O6 applies to the state it is placed in. -/
theorem stepRunsThePlacedWord : Obligations.StepRunsThePlacedWord := by
  intro s nbits w i h
  obtain ⟨p, hp, hd⟩ := decodeTableWord_eq_some h
  have placed : s.withFetchWord nbits w = s.issue p := by simp only [State.withFetchWord, hp]
  rw [placed]
  exact stepRunsTheDecodedInstruction (s.issue p) p [] i rfl rfl hd (s.issue_alone p)

end Sys2Proof.Machine
end

section
/-! The records of a run: the trace, the marks of refusals and the record of a `DomainFault` (O57). -/

namespace Sys2Proof.Machine

/-- `t` has every record of `s`: its trace and its marks of refusals continue those of `s`, and a `DomainFault` recorded
in `s` is recorded in `t`. -/
structure KeepsRecords (s t : State) : Prop where
  trace : s.trace <+: t.trace
  refusals : s.refusals <+: t.refusals
  domainFault : s.domainFault = true → t.domainFault = true

theorem KeepsRecords.refl (s : State) : KeepsRecords s s := ⟨List.prefix_rfl, List.prefix_rfl, id⟩

theorem KeepsRecords.trans {s t u : State} (h : KeepsRecords s t) (k : KeepsRecords t u) : KeepsRecords s u :=
  ⟨h.trace.trans k.trace, h.refusals.trans k.refusals, k.domainFault ∘ h.domainFault⟩

/-- A change of other fields keeps the records. -/
theorem KeepsRecords.of_eq {s t : State} (ht : t.trace = s.trace) (hr : t.refusals = s.refusals)
    (hd : t.domainFault = s.domainFault) : KeepsRecords s t :=
  ⟨ht ▸ List.prefix_rfl, hr ▸ List.prefix_rfl, fun h => hd.trans h⟩

theorem keepsRecords_emit (s : State) (t : Token) : KeepsRecords s (s.emit t) :=
  ⟨List.prefix_append .., List.prefix_rfl, id⟩

theorem keepsRecords_refuse (s : State) (r : RefuseReason) : KeepsRecords s (s.refuse r) :=
  ⟨List.prefix_rfl, List.prefix_append .., id⟩

theorem keepsRecords_advance (s : State) : KeepsRecords s s.advance := .of_eq rfl rfl rfl

theorem keepsRecords_accept (s : State) (i : Instr) : KeepsRecords s (s.accept i) := .of_eq rfl rfl rfl

theorem keepsRecords_setMode (s : State) (p : Role) (m : PinMode) : KeepsRecords s (s.setMode p m) :=
  .of_eq (by simp) (by simp) (by simp)

theorem keepsRecords_setPin (s : State) (p : OutPin) (l : Level) : KeepsRecords s (s.setPin p l) :=
  .of_eq (by simp) (by simp) (by simp)

theorem keepsRecords_closeStep {s t : State} (h : s.closeStep = .done t) : KeepsRecords s t := by
  unfold State.closeStep at h
  split at h
  · split at h
    · cases h; exact .of_eq rfl rfl rfl
    · cases h
  · cases h; exact (keepsRecords_refuse s .notReady).trans (.of_eq rfl rfl rfl)
  · cases h; exact (keepsRecords_refuse s .closed).trans (.of_eq rfl rfl rfl)

theorem keepsRecords_returnTemperature {s t : State} {k : Strategy} (h : s.returnTemperature k = .done t) :
    KeepsRecords s t := by
  unfold State.returnTemperature at h
  split at h
  · cases h
    exact ⟨List.prefix_rfl, List.prefix_rfl, fun hd => by simp [hd]⟩
  · cases h

/-- No step of an operation takes a record back. -/
theorem keepsRecords_perform {s t : State} {m : Micro} (h : s.perform m = .done t) : KeepsRecords s t := by
  cases m with
  | modeOut p => cases h; exact (keepsRecords_setMode s p .out).trans (keepsRecords_emit ..)
  | modeIn p => cases h; exact (keepsRecords_setMode s p .input).trans (keepsRecords_emit ..)
  | wr p l =>
    simp only [State.perform, State.wr] at h
    split at h
    · cases h; exact (keepsRecords_setPin s p l).trans (keepsRecords_emit ..)
    · cases h
  | sample =>
    simp only [State.perform, State.sample] at h
    split at h
    · cases h; exact ⟨List.prefix_append .., List.prefix_rfl, id⟩
    · cases h
  | delay => cases h; exact keepsRecords_emit s .delay
  | lock =>
    simp only [State.perform, State.takeLock] at h
    split at h <;> cases h
    exact .of_eq rfl rfl rfl
  | unlock =>
    simp only [State.perform, State.releaseLock] at h
    split at h <;> cases h
    exact .of_eq rfl rfl rfl
  | decode =>
    simp only [State.perform, State.decodeStep] at h
    split at h <;> cases h
    exact .of_eq rfl rfl rfl
  | count =>
    simp only [State.perform, State.count] at h
    split at h <;> cases h
    exact .of_eq rfl rfl rfl
  | returnReading =>
    simp only [State.perform, State.returnReading] at h
    split at h <;> cases h
    exact .of_eq rfl rfl rfl
  | close => exact keepsRecords_closeStep h
  | returnTemperature k => exact keepsRecords_returnTemperature h
  | clearAcc | keep | bank | build | returnDone | returnByte | returnBytes => cases h; exact .of_eq rfl rfl rfl

theorem Completes.keepsRecords {s t : State} {xs : List Micro} (h : Completes s xs t) : KeepsRecords s t := by
  induction xs generalizing s with
  | nil => cases h; exact .refl _
  | cons m ms ih =>
    obtain ⟨u, hu, hr⟩ := h
    exact ((keepsRecords_perform hu).trans (keepsRecords_advance u)).trans (ih hr)

theorem keepsRecords_exec {s t : State} {i : Instr} (h : exec i s = .next t) : KeepsRecords s t := by
  rw [exec_eq_operate] at h
  obtain ⟨-, ⟨r, -, rfl⟩ | ⟨-, hp⟩⟩ := operate_cases h
  · exact keepsRecords_refuse s r
  · obtain ⟨ys, zs, -, hc, -⟩ := performAll_cases hp
    exact (keepsRecords_accept s i).trans hc.keepsRecords

theorem Serves.keepsRecords {s u : State} (h : Serves s u) : KeepsRecords s u :=
  .of_eq (by rw [← h.rest]) (by rw [← h.rest]) (by rw [← h.rest])

/-- Taking a word from the port keeps the records. -/
theorem keepsRecords_taken (s : State) (rest : List PortWord) : KeepsRecords s (taken s rest) := .of_eq rfl rfl rfl

theorem StepCase.keepsRecords {t u : State} (h : StepCase t u) : KeepsRecords u t := by
  cases h with
  | idle ht => exact ht ▸ .refl _
  | resume q m v hq hm hv ht => exact ht ▸ (keepsRecords_perform hv).trans (keepsRecords_advance v)
  | illegal w rest e hq hp hd ht => exact ht ▸ (keepsRecords_taken u rest).trans (keepsRecords_refuse ..)
  | whole w rest i hq hp hd ha ht => exact (keepsRecords_taken u rest).trans (keepsRecords_exec ht)
  | refused w rest i r hq hp hd hi hr ht => exact ht ▸ (keepsRecords_taken u rest).trans (keepsRecords_refuse ..)
  | accepted w rest i hq hp hd hi hr ht => exact ht ▸ (keepsRecords_taken u rest).trans (keepsRecords_accept ..)

/-- Settles O57: choosing a caller keeps the records, and so does every case of serving it. -/
theorem recordsAreNeverTakenBack : Obligations.RecordsAreNeverTakenBack := by
  intro s t h
  obtain ⟨u, hs, hc⟩ := step_cases h
  obtain ⟨htrace, hrefusals, hfault⟩ := hs.keepsRecords.trans hc.keepsRecords
  exact ⟨htrace, hrefusals, hfault⟩

end Sys2Proof.Machine
end

section
/-! The fields of a binary64 datum, the value they give, and the gaps between the values (R13, decision D4). -/

namespace Sys2Proof.Machine

/-! ### Sign, magnitude and parity -/

theorem Binary64.isFinite_iff (x : Binary64) :
    Binary64.isFinite x = true ↔ Binary64.magnitude x < Binary64.infMagnitude := by
  simp [Binary64.isFinite]

theorem Binary64.isNaN_of_isFinite {x : Binary64} (h : Binary64.isFinite x = true) : Binary64.isNaN x = false := by
  have hlt := (Binary64.isFinite_iff x).1 h
  simp only [Binary64.isNaN, decide_eq_false_iff_not]
  omega

theorem Binary64.isInf_of_isFinite {x : Binary64} (h : Binary64.isFinite x = true) : Binary64.isInf x = false := by
  have hlt := (Binary64.isFinite_iff x).1 h
  rw [Binary64.isInf, beq_eq_false_iff_ne]
  omega

theorem Binary64.fraction_eq (x : Binary64) : Binary64.fraction x = Binary64.magnitude x % 2 ^ 52 := by
  simp only [Binary64.fraction, Binary64.magnitude, Nat.shiftLeft_eq]
  omega

theorem Binary64.exponent_eq (x : Binary64) : Binary64.exponent x = Binary64.magnitude x / 2 ^ 52 := by
  rw [Binary64.exponent, Nat.one_shiftLeft]

theorem Binary64.fraction_lt (x : Binary64) : Binary64.fraction x < 2 ^ 52 :=
  Binary64.fraction_eq x ▸ Nat.mod_lt _ (Nat.two_pow_pos 52)

theorem Binary64.toNat_mod_two (x : Binary64) : x.toNat % 2 = Binary64.magnitude x % 2 := by
  simp only [Binary64.magnitude, Nat.shiftLeft_eq]
  omega

theorem Binary64.sign_eq (x : Binary64) : Binary64.sign x = decide (2 ^ 63 ≤ x.toNat) := by
  rw [Binary64.sign, ← BitVec.msb_eq_getLsbD_last, BitVec.msb_eq_decide]

theorem Binary64.toNat_pack {b : Bool} {m : Nat} (h : m < 2 ^ 63) :
    (Binary64.pack b m).toNat = (if b then 2 ^ 63 else 0) + m := by
  rw [Binary64.pack, BitVec.toNat_ofNat, Nat.one_shiftLeft]
  exact Nat.mod_eq_of_lt (by split <;> omega)

theorem Binary64.magnitude_pack {b : Bool} {m : Nat} (h : m < 2 ^ 63) :
    Binary64.magnitude (Binary64.pack b m) = m := by
  rw [Binary64.magnitude, Binary64.toNat_pack h, Nat.one_shiftLeft]
  split <;> omega

theorem Binary64.sign_pack {b : Bool} {m : Nat} (h : m < 2 ^ 63) : Binary64.sign (Binary64.pack b m) = b := by
  rw [Binary64.sign_eq, Binary64.toNat_pack h]
  cases b
  · simpa using h
  · simp

/-! ### Units -/

/-- The magnitude field `k·2^52 + f` of a significand `f` times `2^k` units; `f` may have been rounded up to 2^53. -/
theorem Binary64.units_of_magnitude {x : Binary64} {k f : Nat} (hm : Binary64.magnitude x = k * 2 ^ 52 + f)
    (hf : f ≤ 2 ^ 53) (hk : k = 0 ∨ 2 ^ 52 ≤ f) : Binary64.units x = f * 2 ^ k := by
  have hexp : Binary64.exponent x = k + f / 2 ^ 52 := by
    rw [Binary64.exponent_eq, hm]
    omega
  have hfrac : Binary64.fraction x = f % 2 ^ 52 := by
    rw [Binary64.fraction_eq, hm]
    omega
  rw [Binary64.units, hexp, hfrac, Nat.shiftLeft_eq, Nat.one_shiftLeft]
  obtain hlt | hge | rfl : f < 2 ^ 52 ∨ (2 ^ 52 ≤ f ∧ f < 2 ^ 53) ∨ f = 2 ^ 53 := by omega
  · obtain rfl : k = 0 := by omega
    rw [if_pos (by omega)]
    omega
  · have hquot : f / 2 ^ 52 = 1 := by omega
    have hsig : 2 ^ 52 + f % 2 ^ 52 = f := by omega
    rw [hquot, if_neg (by omega), hsig, Nat.add_sub_cancel]
  · have hquot : (2 ^ 53 : Nat) / 2 ^ 52 = 2 := by decide
    rw [hquot, if_neg (by omega), show k + 2 - 1 = k + 1 by omega, Nat.pow_succ 2 k]
    omega

theorem Binary64.units_lt (x : Binary64) : Binary64.units x < 2 ^ 53 * 2 ^ (Binary64.exponent x - 1) := by
  have hfrac := Binary64.fraction_lt x
  have hpos := Nat.two_pow_pos (Binary64.exponent x - 1)
  rw [Binary64.units, Nat.shiftLeft_eq, Nat.one_shiftLeft]
  split
  · omega
  · exact Nat.mul_lt_mul_of_pos_right (by omega) hpos

/-- From 2^(52+k) units on, data are whole multiples of 2^k units. -/
theorem Binary64.units_dvd_or_lt (x : Binary64) (k : Nat) :
    2 ^ k ∣ Binary64.units x ∨ Binary64.units x < 2 ^ 52 * 2 ^ k := by
  obtain hle | hlt := le_or_gt k (Binary64.exponent x - 1)
  · left
    rw [Binary64.units, Nat.shiftLeft_eq]
    split
    · obtain rfl : k = 0 := by omega
      exact one_dvd _
    · exact Dvd.dvd.mul_left (Nat.pow_dvd_pow 2 hle) _
  · right
    calc Binary64.units x
        < 2 ^ 53 * 2 ^ (Binary64.exponent x - 1) := Binary64.units_lt x
      _ = 2 ^ 52 * 2 ^ (Binary64.exponent x - 1 + 1) := by rw [Nat.pow_succ _ (Binary64.exponent x - 1)]; omega
      _ ≤ 2 ^ 52 * 2 ^ k := Nat.mul_le_mul_left _ (Nat.pow_le_pow_right (by omega) hlt)

/-- No datum's magnitude lies strictly between two neighbours `f·2^k` and `(f+1)·2^k`. -/
theorem Binary64.units_le_or_ge (x : Binary64) {k f : Nat} (hk : k = 0 ∨ 2 ^ 52 ≤ f) :
    Binary64.units x ≤ f * 2 ^ k ∨ (f + 1) * 2 ^ k ≤ Binary64.units x := by
  have on_grid : 2 ^ k ∣ Binary64.units x →
      Binary64.units x ≤ f * 2 ^ k ∨ (f + 1) * 2 ^ k ≤ Binary64.units x := by
    rintro ⟨m, hm⟩
    rw [hm, Nat.mul_comm]
    obtain hle | hlt := le_or_gt m f
    · exact .inl (Nat.mul_le_mul_right _ hle)
    · exact .inr (Nat.mul_le_mul_right _ hlt)
  obtain hdvd | hlt := Binary64.units_dvd_or_lt x k
  · exact on_grid hdvd
  · obtain rfl | hf := hk
    · exact on_grid (one_dvd _)
    · exact .inl (hlt.le.trans (Nat.mul_le_mul_right _ hf))

theorem Binary64.units_eq_zero_iff (x : Binary64) : Binary64.units x = 0 ↔ Binary64.magnitude x = 0 := by
  have hfrac := Binary64.fraction_eq x
  have hexp := Binary64.exponent_eq x
  rw [Binary64.units, Nat.shiftLeft_eq, Nat.one_shiftLeft]
  split
  · omega
  · have hpos := Nat.two_pow_pos (Binary64.exponent x - 1)
    rw [Nat.mul_eq_zero]
    omega

theorem Binary64.units_lt_two_pow {x : Binary64} {e : Nat} (h : Binary64.exponent x - 1 ≤ e) :
    Binary64.units x < 2 ^ (53 + e) := by
  rw [Nat.pow_add]
  exact (Binary64.units_lt x).trans_le (Nat.mul_le_mul_left _ (Nat.pow_le_pow_right (by omega) h))

theorem Binary64.exponent_le_of_isFinite {x : Binary64} (h : Binary64.isFinite x = true) :
    Binary64.exponent x - 1 ≤ 2045 := by
  have hm : Binary64.magnitude x < 0x7FF <<< 52 := (Binary64.isFinite_iff x).1 h
  rw [Binary64.exponent_eq]
  omega

/-! ### Values -/

/-- A real of the given sign and magnitude. -/
def Binary64.withSign (b : Bool) (q : ℝ) : ℝ := if b then -q else q

@[simp] theorem Binary64.withSign_false (q : ℝ) : Binary64.withSign false q = q := rfl

@[simp] theorem Binary64.withSign_true (q : ℝ) : Binary64.withSign true q = -q := rfl

theorem Binary64.withSign_mul_withSign (a b : Bool) (p q : ℝ) :
    Binary64.withSign a p * Binary64.withSign b q = Binary64.withSign (a != b) (p * q) := by
  cases a <;> cases b <;> simp

theorem Binary64.withSign_div_withSign (a b : Bool) (p q : ℝ) :
    Binary64.withSign a p / Binary64.withSign b q = Binary64.withSign (a != b) (p / q) := by
  cases a <;> cases b <;> simp [neg_div, div_neg]

theorem Binary64.withSign_div (b : Bool) (p q : ℝ) : Binary64.withSign b (p / q) = Binary64.withSign b p / q := by
  cases b <;> simp [neg_div]

theorem Binary64.abs_withSign_sub_withSign (b : Bool) (p q : ℝ) :
    |Binary64.withSign b p - Binary64.withSign b q| = |p - q| := by
  cases b
  · rfl
  · rw [Binary64.withSign_true, Binary64.withSign_true, neg_sub_neg, abs_sub_comm]

theorem Binary64.value_eq_signedUnits (x : Binary64) :
    (Binary64.value x : ℝ) = (Binary64.signedUnits x : ℝ) / 2 ^ 1074 := by
  rw [Binary64.value]
  push_cast
  rfl

theorem Binary64.value_eq (x : Binary64) :
    (Binary64.value x : ℝ) = Binary64.withSign (Binary64.sign x) (Binary64.units x) / 2 ^ 1074 := by
  rw [Binary64.value_eq_signedUnits, Binary64.signedUnits]
  cases Binary64.sign x <;> simp

theorem Binary64.value_eq_zero_iff (x : Binary64) : Binary64.value x = 0 ↔ Binary64.magnitude x = 0 := by
  have hpos : (2 : ℚ) ^ 1074 ≠ 0 := by positivity
  rw [← Binary64.units_eq_zero_iff, Binary64.value, div_eq_zero_iff, or_iff_left hpos, Int.cast_eq_zero,
    Binary64.signedUnits]
  split <;> omega

theorem Binary64.sign_of_nonneg {x : Binary64} (h : 0 ≤ Binary64.value x) (h0 : Binary64.magnitude x ≠ 0) :
    Binary64.sign x = false := by
  have hunits : Binary64.units x ≠ 0 := (Binary64.units_eq_zero_iff x).not.2 h0
  have hpow : (0 : ℚ) < 2 ^ 1074 := by positivity
  rw [Binary64.value, le_div_iff₀ hpow, zero_mul, Int.cast_nonneg_iff, Binary64.signedUnits] at h
  by_contra hs
  rw [if_pos (by simpa using hs)] at h
  omega

/-- The value as seen from the sign `b`. -/
theorem Binary64.value_eq_withSign (x : Binary64) (b : Bool) : (Binary64.value x : ℝ) =
    Binary64.withSign b (Binary64.withSign (Binary64.sign x != b) (Binary64.units x)) / 2 ^ 1074 := by
  rw [Binary64.value_eq]
  cases Binary64.sign x <;> cases b <;> simp

end Sys2Proof.Machine
end

section
/-! Rounding to nearest, ties to even (R13, decision D4): a datum packed from a rounded magnitude is a nearest one. -/

namespace Sys2Proof.Machine

/-! ### The nearer end of a gap -/

theorem abs_sub_le_of_nearer_low {A B Z q : ℝ} (hA : A ≤ q) (hZ : Z ≤ A ∨ B ≤ Z) (hmid : 2 * q ≤ A + B) :
    |A - q| ≤ |Z - q| ∧ (|A - q| = |Z - q| → Z = A ∨ A + B = 2 * q) := by
  rw [abs_of_nonpos (by linarith : A - q ≤ 0)]
  obtain hZ | hZ := hZ
  · rw [abs_of_nonpos (by linarith : Z - q ≤ 0)]
    exact ⟨by linarith, fun _ => .inl (by linarith)⟩
  · rw [abs_of_nonneg (by linarith : 0 ≤ Z - q)]
    exact ⟨by linarith, fun _ => .inr (by linarith)⟩

theorem abs_sub_le_of_nearer_high {A B Z q : ℝ} (hB : q ≤ B) (hZ : Z ≤ A ∨ B ≤ Z) (hmid : A + B ≤ 2 * q) :
    |B - q| ≤ |Z - q| ∧ (|B - q| = |Z - q| → Z = B ∨ A + B = 2 * q) := by
  have mirrored := abs_sub_le_of_nearer_low (A := -B) (B := -A) (Z := -Z) (q := -q) (by linarith)
    (hZ.symm.imp (by intro h; linarith) (by intro h; linarith)) (by linarith)
  rw [neg_sub_neg, neg_sub_neg, abs_sub_comm q B, abs_sub_comm q Z] at mirrored
  exact ⟨mirrored.1, fun h => (mirrored.2 h).imp (by intro h; linarith) (by intro h; linarith)⟩

/-! ### Rounded magnitudes -/

/-- `g` times `2^k` is `q` rounded to a 53-bit significand, and `f` times `2^k` is `q` rounded down. -/
structure RoundsTo (k f g : Nat) (q : ℝ) : Prop where
  lower : (f : ℝ) * 2 ^ k ≤ q
  upper : q ≤ ((f : ℝ) + 1) * 2 ^ k
  normal : k = 0 ∨ 2 ^ 52 ≤ f
  small : f < 2 ^ 53
  choice : g = if (2 * f + 1) * 2 ^ k < 2 * q ∨ ((2 * f + 1) * 2 ^ k = 2 * q ∧ f % 2 = 1) then f + 1 else f

/-- A rounded significand is at least as near as any datum, and even where another one is as near. -/
theorem RoundsTo.nearest {k f g : Nat} {q Z : ℝ} (h : RoundsTo k f g q)
    (hZ : Z ≤ (f : ℝ) * 2 ^ k ∨ ((f : ℝ) + 1) * 2 ^ k ≤ Z) :
    |(g : ℝ) * 2 ^ k - q| ≤ |Z - q| ∧
      (|(g : ℝ) * 2 ^ k - q| = |Z - q| → Z ≠ (g : ℝ) * 2 ^ k → g % 2 = 0) := by
  have hsum : (f : ℝ) * 2 ^ k + ((f : ℝ) + 1) * 2 ^ k = (2 * f + 1) * 2 ^ k := by ring
  obtain ⟨hlower, hupper, -, -, hchoice⟩ := h
  split at hchoice
  next hup =>
    have near := abs_sub_le_of_nearer_high hupper hZ (by
      obtain hlt | ⟨heq, -⟩ := hup <;> linarith)
    subst hchoice
    push_cast
    refine ⟨near.1, fun htie hne => ?_⟩
    obtain hZg | hmid := near.2 htie
    · exact absurd hZg hne
    · obtain hlt | ⟨-, hodd⟩ := hup
      · linarith
      · omega
  next hdown =>
    push Not at hdown
    have near := abs_sub_le_of_nearer_low hlower hZ (by linarith [hdown.1])
    subst hchoice
    refine ⟨near.1, fun htie hne => ?_⟩
    obtain hZg | hmid := near.2 htie
    · exact absurd hZg hne
    · have heven := hdown.2 (by linarith)
      omega

theorem RoundsTo.le {k f g : Nat} {q : ℝ} (h : RoundsTo k f g q) : f ≤ g ∧ g ≤ f + 1 := by
  rw [h.choice]
  split <;> omega

/-! ### A packed datum -/

theorem Binary64.assemble_lt (k g : Nat) : Binary64.assemble k g < 2 ^ 63 :=
  (Nat.min_le_right _ _).trans_lt (by decide)

theorem Binary64.isFinite_pack_assemble (b : Bool) (k g : Nat) :
    Binary64.isFinite (Binary64.pack b (Binary64.assemble k g)) = true ↔ k * 2 ^ 52 + g < Binary64.infMagnitude := by
  rw [Binary64.isFinite_iff, Binary64.magnitude_pack (Binary64.assemble_lt k g), Binary64.assemble, Nat.shiftLeft_eq]
  omega

theorem Binary64.magnitude_pack_assemble {b : Bool} {k g : Nat}
    (h : Binary64.isFinite (Binary64.pack b (Binary64.assemble k g)) = true) :
    Binary64.magnitude (Binary64.pack b (Binary64.assemble k g)) = k * 2 ^ 52 + g := by
  rw [Binary64.magnitude_pack (Binary64.assemble_lt k g), Binary64.assemble, Nat.shiftLeft_eq]
  exact Nat.min_eq_left ((Binary64.isFinite_pack_assemble b k g).1 h).le

/-- No datum, taken with either sign, lies strictly between two neighbours `f·2^k` and `(f+1)·2^k`. -/
theorem Binary64.withSign_units_le_or_ge (b : Bool) (z : Binary64) {k f : Nat} (hk : k = 0 ∨ 2 ^ 52 ≤ f) :
    Binary64.withSign b (Binary64.units z) ≤ (f : ℝ) * 2 ^ k ∨
      ((f : ℝ) + 1) * 2 ^ k ≤ Binary64.withSign b (Binary64.units z) := by
  cases b with
  | false =>
    rw [Binary64.withSign_false]
    exact_mod_cast Binary64.units_le_or_ge z hk
  | true =>
    left
    have hz : (0 : ℝ) ≤ Binary64.units z := by positivity
    have hf : (0 : ℝ) ≤ (f : ℝ) * 2 ^ k := by positivity
    rw [Binary64.withSign_true]
    linarith

/-- To be nearest it is enough to be nearest in units, among the magnitudes of all data taken with either sign. -/
theorem nearestEven_of_units {r : Binary64} {b : Bool} {p q : ℝ}
    (hr : (Binary64.value r : ℝ) = Binary64.withSign b p / 2 ^ 1074)
    (h : ∀ (a : Bool) (z : Binary64), |p - q| ≤ |Binary64.withSign a (Binary64.units z) - q| ∧
      (|p - q| = |Binary64.withSign a (Binary64.units z) - q| → Binary64.withSign a (Binary64.units z) ≠ p →
        r.toNat % 2 = 0)) :
    NearestEven r (Binary64.withSign b q / 2 ^ 1074) := by
  intro z _
  have hz := Binary64.value_eq_withSign z b
  obtain ⟨hle, htie⟩ := h (Binary64.sign z != b) z
  generalize Binary64.withSign (Binary64.sign z != b) (Binary64.units z) = Z at hz hle htie
  have hpos : (0 : ℝ) < 2 ^ 1074 := by positivity
  have dist (y : ℝ) : |Binary64.withSign b y / 2 ^ 1074 - Binary64.withSign b q / 2 ^ 1074| = |y - q| / 2 ^ 1074 := by
    rw [← sub_div, abs_div, Binary64.abs_withSign_sub_withSign, abs_of_pos hpos]
  rw [hr, hz, dist, dist, div_le_div_iff_of_pos_right hpos, div_left_inj' hpos.ne']
  refine ⟨hle, fun heq hne => htie heq fun hZ => hne ?_⟩
  have hreal : (Binary64.value z : ℝ) = Binary64.value r := by rw [hz, hr, hZ]
  exact_mod_cast hreal

/-- The datum of a rounded magnitude is a nearest one to the exact result. -/
theorem nearestEven_pack_assemble {b : Bool} {k f g : Nat} {q : ℝ} (h : RoundsTo k f g q)
    (hfin : Binary64.isFinite (Binary64.pack b (Binary64.assemble k g)) = true) :
    NearestEven (Binary64.pack b (Binary64.assemble k g)) (Binary64.withSign b q / 2 ^ 1074) := by
  have hmag := Binary64.magnitude_pack_assemble hfin
  have hsign : Binary64.sign (Binary64.pack b (Binary64.assemble k g)) = b :=
    Binary64.sign_pack (Binary64.assemble_lt k g)
  generalize Binary64.pack b (Binary64.assemble k g) = r at hmag hsign ⊢
  obtain ⟨hfg, hgf⟩ := h.le
  have hsmall := h.small
  have hunits : Binary64.units r = g * 2 ^ k :=
    Binary64.units_of_magnitude hmag (by omega) (h.normal.imp_right (fun hf => hf.trans hfg))
  have hparity : r.toNat % 2 = g % 2 := by
    rw [Binary64.toNat_mod_two, hmag]
    omega
  refine nearestEven_of_units (p := (g : ℝ) * 2 ^ k) ?_ fun a z => ?_
  · rw [Binary64.value_eq, hsign, hunits]
    push_cast
    rfl
  · rw [hparity]
    exact h.nearest (Binary64.withSign_units_le_or_ge a z h.normal)

/-- A datum whose value is the exact result is the nearest one. -/
theorem nearestEven_of_value_eq {r : Binary64} {q : ℝ} (h : (Binary64.value r : ℝ) = q) : NearestEven r q := by
  intro z _
  rw [h, sub_self, abs_zero]
  refine ⟨abs_nonneg _, fun htie hne => absurd ?_ hne⟩
  have hreal : (Binary64.value z : ℝ) = Binary64.value r := by
    rw [h]
    exact sub_eq_zero.1 (abs_eq_zero.1 htie.symm)
  exact_mod_cast hreal

end Sys2Proof.Machine
end

section
/-! What the two rounding functions give: the exact quotient and the exact square root, rounded (decision D4). -/

namespace Sys2Proof.Machine

/-- Dropping `excess n` binary digits leaves a significand of 53 digits, or all of `n`. -/
theorem Binary64.excess_spec (n : Nat) :
    (Binary64.excess n = 0 ∨ 2 ^ 52 ≤ n / 2 ^ Binary64.excess n) ∧ n / 2 ^ Binary64.excess n < 2 ^ 53 := by
  have hlt : n < 2 ^ (n.log2 + 1) := Nat.lt_log2_self
  obtain hlog | hlog := lt_or_ge n.log2 53
  · have hk : Binary64.excess n = 0 := by
      rw [Binary64.excess]
      omega
    rw [hk, Nat.pow_zero, Nat.div_one]
    exact ⟨.inl rfl, hlt.trans_le (Nat.pow_le_pow_right (by omega) (by omega))⟩
  · have hk : Binary64.excess n = n.log2 - 52 := by
      rw [Binary64.excess]
      omega
    have hn : n ≠ 0 := by
      rintro rfl
      exact absurd hlog (by decide)
    rw [hk, Nat.le_div_iff_mul_le (Nat.two_pow_pos _), Nat.div_lt_iff_lt_mul (Nat.two_pow_pos _), ← Nat.pow_add,
      ← Nat.pow_add, show 52 + (n.log2 - 52) = n.log2 by omega, show 53 + (n.log2 - 52) = n.log2 + 1 by omega]
    exact ⟨.inr (Nat.log2_self_le hn), hlt⟩

/-! ### Quotients -/

/-- `roundQuot` rounds the exact quotient. -/
theorem Binary64.roundQuot_roundsTo (num : Nat) {den : Nat} (hden : 0 < den) :
    ∃ k f g, Binary64.roundQuot num den = Binary64.assemble k g ∧ RoundsTo k f g ((num : ℝ) / den) := by
  obtain ⟨hnormal, hsmall⟩ := Binary64.excess_spec (num / den)
  rw [Nat.div_div_eq_div_mul] at hnormal hsmall
  refine ⟨Binary64.excess (num / den), num / (den * 2 ^ Binary64.excess (num / den)), _,
    by rw [Binary64.roundQuot, Nat.shiftLeft_eq], ?_⟩
  generalize Binary64.excess (num / den) = k at *
  have hd : 0 < den * 2 ^ k := Nat.mul_pos hden (Nat.two_pow_pos k)
  have hdiv : den * 2 ^ k * (num / (den * 2 ^ k)) + num % (den * 2 ^ k) = num := Nat.div_add_mod ..
  have hmod : num % (den * 2 ^ k) < den * 2 ^ k := Nat.mod_lt _ hd
  generalize num / (den * 2 ^ k) = f at *
  generalize num % (den * 2 ^ k) = r at *
  have hden' : (0 : ℝ) < den := by exact_mod_cast hden
  have hf : f * 2 ^ k * den = den * 2 ^ k * f := by ring
  have hf1 : (f + 1) * 2 ^ k * den = den * 2 ^ k * f + den * 2 ^ k := by ring
  have hmid : (2 * f + 1) * 2 ^ k * den = 2 * (den * 2 ^ k * f) + den * 2 ^ k := by ring
  refine ⟨?_, ?_, hnormal, hsmall, if_congr (or_congr ?_ (and_congr_left' ?_)) rfl rfl⟩
  · rw [le_div_iff₀ hden']
    norm_cast
    omega
  · rw [div_le_iff₀ hden']
    norm_cast
    omega
  · rw [← mul_div_assoc, lt_div_iff₀ hden']
    norm_cast
    omega
  · rw [← mul_div_assoc, eq_div_iff hden'.ne']
    norm_cast
    omega

/-! ### Square roots -/

/-- The digits found are those of the root, once it is known to lie in `[f, f + 2^n)`. -/
theorem Binary64.rootDigits_eq_sqrt {x n f : Nat} (hlow : f * f ≤ x) (hhigh : x < (f + 2 ^ n) * (f + 2 ^ n)) :
    Binary64.rootDigits x n f = Nat.sqrt x := by
  induction n generalizing f with
  | zero => exact Nat.eq_sqrt.2 ⟨hlow, hhigh⟩
  | succ n ih =>
    simp only [Binary64.rootDigits, Nat.one_shiftLeft]
    split
    next hle => exact ih hle (by rwa [Nat.add_assoc, ← Nat.two_mul, ← Nat.pow_succ'])
    next hgt => exact ih hlow (Nat.lt_of_not_le hgt)

theorem sqrt_div_two_pow (x k : Nat) : Nat.sqrt (x / 2 ^ (2 * k)) = Nat.sqrt x / 2 ^ k := by
  refine eq_of_forall_le_iff fun a => ?_
  rw [Nat.le_sqrt, Nat.le_div_iff_mul_le (Nat.two_pow_pos _), Nat.le_div_iff_mul_le (Nat.two_pow_pos _), Nat.le_sqrt,
    Nat.two_mul, Nat.pow_add, Nat.mul_mul_mul_comm]

theorem log2_sqrt (x : Nat) : (Nat.sqrt x).log2 = x.log2 / 2 := by
  obtain rfl | hx := Nat.eq_zero_or_pos x
  · decide
  · rw [Nat.log2_eq_iff (Nat.sqrt_pos.2 hx).ne', Nat.le_sqrt, Nat.sqrt_lt, ← Nat.pow_add, ← Nat.pow_add]
    constructor
    · exact (Nat.pow_le_pow_right (by omega) (by omega)).trans (Nat.log2_self_le hx.ne')
    · exact Nat.lt_log2_self.trans_le (Nat.pow_le_pow_right (by omega) (by omega))

theorem two_mul_sqrt (x : Nat) : 2 * √(x : ℝ) = √((4 * x : Nat) : ℝ) := by
  rw [Nat.cast_mul, Real.sqrt_mul (Nat.cast_nonneg 4), Nat.cast_ofNat, show (4 : ℝ) = 2 * 2 by norm_num,
    Real.sqrt_mul_self zero_le_two]

theorem lt_two_mul_sqrt_iff (m x : Nat) : (m : ℝ) < 2 * √(x : ℝ) ↔ m * m < 4 * x := by
  rw [two_mul_sqrt, Real.lt_sqrt (Nat.cast_nonneg m), pow_two]
  norm_cast

theorem eq_two_mul_sqrt_iff (m x : Nat) : (m : ℝ) = 2 * √(x : ℝ) ↔ m * m = 4 * x := by
  rw [two_mul_sqrt, eq_comm, Real.sqrt_eq_iff_mul_self_eq (Nat.cast_nonneg _) (Nat.cast_nonneg m), eq_comm]
  norm_cast

/-- The significand `roundRoot` starts from is the integer root, its low digits dropped. -/
theorem Binary64.rootDigits_shiftRight (x : Nat) :
    Binary64.rootDigits (x >>> (2 * Binary64.excess (Nat.sqrt x))) 53 0 =
      Nat.sqrt x / 2 ^ Binary64.excess (Nat.sqrt x) := by
  have hsmall := (Binary64.excess_spec (Nat.sqrt x)).2
  rw [Nat.shiftRight_eq_div_pow]
  rw [← sqrt_div_two_pow] at hsmall ⊢
  exact Binary64.rootDigits_eq_sqrt (Nat.zero_le _) (by rw [Nat.zero_add]; exact Nat.sqrt_lt.1 hsmall)

/-- `roundRoot` rounds the exact square root. -/
theorem Binary64.roundRoot_roundsTo (x : Nat) :
    ∃ f g, Binary64.roundRoot x = Binary64.assemble (Binary64.excess (Nat.sqrt x)) g ∧
      RoundsTo (Binary64.excess (Nat.sqrt x)) f g √(x : ℝ) := by
  obtain ⟨hnormal, hsmall⟩ := Binary64.excess_spec (Nat.sqrt x)
  have hk : x.log2 / 2 + 1 - 53 = Binary64.excess (Nat.sqrt x) := by rw [Binary64.excess, log2_sqrt]
  refine ⟨Nat.sqrt x / 2 ^ Binary64.excess (Nat.sqrt x), _,
    by rw [Binary64.roundRoot, hk, Binary64.rootDigits_shiftRight, Nat.shiftLeft_eq], ?_⟩
  generalize Binary64.excess (Nat.sqrt x) = k at *
  have hlow : Nat.sqrt x / 2 ^ k * 2 ^ k ≤ Nat.sqrt x := Nat.div_mul_le_self ..
  have hhigh : Nat.sqrt x + 1 ≤ (Nat.sqrt x / 2 ^ k + 1) * 2 ^ k := by
    rw [Nat.mul_comm]
    exact Nat.lt_mul_div_succ _ (Nat.two_pow_pos k)
  generalize Nat.sqrt x / 2 ^ k = f at *
  have hmid : (2 * f + 1) * (2 * f + 1) * 2 ^ (2 * k) = (2 * f + 1) * 2 ^ k * ((2 * f + 1) * 2 ^ k) := by ring
  have hcast : ((2 : ℝ) * f + 1) * 2 ^ k = ((2 * f + 1) * 2 ^ k : Nat) := by push_cast; rfl
  refine ⟨?_, ?_, hnormal, hsmall, if_congr (or_congr ?_ (and_congr_left' ?_)) rfl rfl⟩
  · exact le_trans (by exact_mod_cast hlow) Real.nat_sqrt_le_real_sqrt
  · exact Real.real_sqrt_lt_nat_sqrt_succ.le.trans (by exact_mod_cast hhigh)
  · rw [hmid, hcast, lt_two_mul_sqrt_iff]
  · rw [hmid, hcast, eq_two_mul_sqrt_iff]

end Sys2Proof.Machine
end

section
/-! The operations on finite data: sum, product, quotient (O46) and square root (O47) are rounded to nearest, ties to
even. -/

namespace Sys2Proof.Machine

theorem one_shiftLeft_pos (e : Nat) : 0 < 1 <<< e := by
  rw [Nat.one_shiftLeft]
  exact Nat.two_pow_pos e

theorem cast_shiftLeft (n e : Nat) : ((n <<< e : Nat) : ℝ) = n * 2 ^ e := by
  rw [Nat.shiftLeft_eq]
  push_cast
  rfl

/-! ### Sum, product, quotient -/

theorem nearestEven_pack_roundQuot {b : Bool} {num den : Nat} (hden : 0 < den)
    (hfin : Binary64.isFinite (Binary64.pack b (Binary64.roundQuot num den)) = true) {q : ℝ}
    (hq : q = Binary64.withSign b ((num : ℝ) / den) / 2 ^ 1074) :
    NearestEven (Binary64.pack b (Binary64.roundQuot num den)) q := by
  obtain ⟨k, f, g, hround, hrounds⟩ := Binary64.roundQuot_roundsTo num hden
  rw [hround] at hfin ⊢
  rw [hq]
  exact nearestEven_pack_assemble hrounds hfin

theorem Binary64.add_of_isFinite {x y : Binary64} (hx : Binary64.isFinite x = true)
    (hy : Binary64.isFinite y = true) : Binary64.add x y =
      if Binary64.signedUnits x + Binary64.signedUnits y = 0 then
        Binary64.pack (Binary64.sign x && Binary64.sign y) 0
      else Binary64.pack (decide (Binary64.signedUnits x + Binary64.signedUnits y < 0))
        (Binary64.roundQuot (Binary64.signedUnits x + Binary64.signedUnits y).natAbs 1) := by
  simp [Binary64.add, Binary64.isNaN_of_isFinite, Binary64.isInf_of_isFinite, hx, hy]

theorem Binary64.mul_of_isFinite {x y : Binary64} (hx : Binary64.isFinite x = true)
    (hy : Binary64.isFinite y = true) : Binary64.mul x y =
      Binary64.pack (Binary64.sign x != Binary64.sign y)
        (Binary64.roundQuot (Binary64.units x * Binary64.units y) (1 <<< 1074)) := by
  simp only [Binary64.mul, Binary64.isNaN_of_isFinite, Binary64.isInf_of_isFinite, hx, hy, Bool.or_self,
    Bool.false_eq_true, if_false]

theorem Binary64.div_of_isFinite {x y : Binary64} (hx : Binary64.isFinite x = true)
    (hy : Binary64.isFinite y = true) (h0 : Binary64.magnitude y ≠ 0) : Binary64.div x y =
      Binary64.pack (Binary64.sign x != Binary64.sign y)
        (Binary64.roundQuot (Binary64.units x <<< 1074) (Binary64.units y)) := by
  simp only [Binary64.div, Binary64.isNaN_of_isFinite, Binary64.isInf_of_isFinite, hx, hy, h0, Bool.or_self,
    Bool.false_eq_true, if_false]

theorem Binary64.withSign_natAbs (n : Int) : Binary64.withSign (decide (n < 0)) n.natAbs = n := by
  obtain hn | hn := lt_or_ge n 0
  · simp [hn, Nat.cast_natAbs, abs_of_neg hn]
  · simp [hn.not_gt, Nat.cast_natAbs, abs_of_nonneg hn]

theorem nearestEven_add {x y : Binary64} (hx : Binary64.isFinite x = true) (hy : Binary64.isFinite y = true)
    (hfin : Binary64.isFinite (Binary64.add x y) = true) :
    NearestEven (Binary64.add x y) ((Binary64.value x : ℝ) + Binary64.value y) := by
  have hexact : (Binary64.value x : ℝ) + Binary64.value y =
      ((Binary64.signedUnits x + Binary64.signedUnits y : Int) : ℝ) / 2 ^ 1074 := by
    rw [Binary64.value_eq_signedUnits, Binary64.value_eq_signedUnits, ← add_div, Int.cast_add]
  rw [hexact]
  rw [Binary64.add_of_isFinite hx hy] at hfin ⊢
  generalize Binary64.signedUnits x + Binary64.signedUnits y = sum at *
  by_cases hsum : sum = 0
  · rw [if_pos hsum, hsum, Int.cast_zero, zero_div]
    apply nearestEven_of_value_eq
    rw [(Binary64.value_eq_zero_iff _).2 (Binary64.magnitude_pack (by decide)), Rat.cast_zero]
  · rw [if_neg hsum] at hfin ⊢
    refine nearestEven_pack_roundQuot Nat.one_pos hfin ?_
    rw [Nat.cast_one, div_one, Binary64.withSign_natAbs]

theorem nearestEven_mul {x y : Binary64} (hx : Binary64.isFinite x = true) (hy : Binary64.isFinite y = true)
    (hfin : Binary64.isFinite (Binary64.mul x y) = true) :
    NearestEven (Binary64.mul x y) ((Binary64.value x : ℝ) * Binary64.value y) := by
  rw [Binary64.mul_of_isFinite hx hy] at hfin ⊢
  refine nearestEven_pack_roundQuot (one_shiftLeft_pos _) hfin ?_
  rw [Binary64.value_eq, Binary64.value_eq, div_mul_div_comm, Binary64.withSign_mul_withSign, Binary64.withSign_div,
    div_div, Nat.cast_mul, cast_shiftLeft, Nat.cast_one, one_mul]

theorem nearestEven_div {x y : Binary64} (hx : Binary64.isFinite x = true) (hy : Binary64.isFinite y = true)
    (h0 : Binary64.value y ≠ 0) (hfin : Binary64.isFinite (Binary64.div x y) = true) :
    NearestEven (Binary64.div x y) ((Binary64.value x : ℝ) / Binary64.value y) := by
  have hmag : Binary64.magnitude y ≠ 0 := (Binary64.value_eq_zero_iff y).not.1 h0
  have hunits : 0 < Binary64.units y := Nat.pos_of_ne_zero ((Binary64.units_eq_zero_iff y).not.2 hmag)
  have hpow : (2 : ℝ) ^ 1074 ≠ 0 := by positivity
  rw [Binary64.div_of_isFinite hx hy hmag] at hfin ⊢
  refine nearestEven_pack_roundQuot hunits hfin ?_
  rw [Binary64.value_eq, Binary64.value_eq, div_div_div_cancel_right₀ hpow, Binary64.withSign_div_withSign,
    cast_shiftLeft, mul_div_right_comm, ← Binary64.withSign_div, mul_div_cancel_right₀ _ hpow]

/-- Settles O46: each operation packs its exact result rounded once. -/
theorem arithmeticRoundsToNearestEven : Obligations.ArithmeticRoundsToNearestEven := by
  intro x y hx hy
  exact ⟨nearestEven_add hx hy, nearestEven_mul hx hy, nearestEven_div hx hy⟩

/-! ### Square root -/

theorem Binary64.sqrt_of_isFinite {x : Binary64} (hx : Binary64.isFinite x = true)
    (h0 : Binary64.magnitude x ≠ 0) (hs : Binary64.sign x = false) :
    Binary64.sqrt x = Binary64.pack false (Binary64.roundRoot (Binary64.units x <<< 1074)) := by
  simp only [Binary64.sqrt, Binary64.isNaN_of_isFinite hx, Binary64.isInf_of_isFinite hx, h0, hs, Bool.false_eq_true,
    if_false]

theorem Binary64.sqrt_of_magnitude_eq_zero {x : Binary64} (hx : Binary64.isFinite x = true)
    (h0 : Binary64.magnitude x = 0) : Binary64.sqrt x = x := by
  simp [Binary64.sqrt, Binary64.isNaN_of_isFinite hx, h0]

theorem Binary64.excess_sqrt_shiftLeft_le {n a b : Nat} (h : n < 2 ^ a) :
    Binary64.excess (Nat.sqrt (n <<< b)) ≤ (a + b + 1) / 2 - 53 := by
  rw [Binary64.excess, log2_sqrt, Nat.shiftLeft_eq]
  obtain rfl | hn := Nat.eq_zero_or_pos n
  · simp
  · have hlog : (n * 2 ^ b).log2 < a + b := by
      rw [Nat.log2_lt (Nat.mul_pos hn (Nat.two_pow_pos b)).ne', Nat.pow_add]
      exact Nat.mul_lt_mul_of_pos_right h (Nat.two_pow_pos b)
    omega

theorem Binary64.isFinite_sqrt {x : Binary64} (hx : Binary64.isFinite x = true) (hs : 0 ≤ Binary64.value x) :
    Binary64.isFinite (Binary64.sqrt x) = true := by
  obtain h0 | h0 := eq_or_ne (Binary64.magnitude x) 0
  · rwa [Binary64.sqrt_of_magnitude_eq_zero hx h0]
  · obtain ⟨f, g, hround, hrounds⟩ := Binary64.roundRoot_roundsTo (Binary64.units x <<< 1074)
    have hk := Binary64.excess_sqrt_shiftLeft_le (b := 1074)
      (Binary64.units_lt_two_pow (Binary64.exponent_le_of_isFinite hx))
    have hsmall := hrounds.small
    obtain ⟨-, hgf⟩ := hrounds.le
    rw [Binary64.sqrt_of_isFinite hx h0 (Binary64.sign_of_nonneg hs h0), hround, Binary64.isFinite_pack_assemble,
      Binary64.infMagnitude]
    omega

theorem sqrt_div_eq {u c : ℝ} (hu : 0 ≤ u) (hc : 0 < c) : √(u / c) = √(u * c) / c := by
  rw [← mul_div_mul_right u c hc.ne', Real.sqrt_div (mul_nonneg hu hc.le), Real.sqrt_mul_self hc.le]

theorem nearestEven_sqrt {x : Binary64} (hx : Binary64.isFinite x = true) (hs : 0 ≤ Binary64.value x) :
    NearestEven (Binary64.sqrt x) √(Binary64.value x : ℝ) := by
  have hfin := Binary64.isFinite_sqrt hx hs
  obtain h0 | h0 := eq_or_ne (Binary64.magnitude x) 0
  · rw [Binary64.sqrt_of_magnitude_eq_zero hx h0]
    apply nearestEven_of_value_eq
    rw [(Binary64.value_eq_zero_iff x).2 h0, Rat.cast_zero, Real.sqrt_zero]
  · have hsign := Binary64.sign_of_nonneg hs h0
    obtain ⟨f, g, hround, hrounds⟩ := Binary64.roundRoot_roundsTo (Binary64.units x <<< 1074)
    have hexact : √(Binary64.value x : ℝ) =
        Binary64.withSign false √((Binary64.units x <<< 1074 : Nat) : ℝ) / 2 ^ 1074 := by
      rw [Binary64.value_eq, hsign, Binary64.withSign_false, Binary64.withSign_false, cast_shiftLeft,
        sqrt_div_eq (Nat.cast_nonneg _) (by positivity)]
    rw [Binary64.sqrt_of_isFinite hx h0 hsign, hround] at hfin ⊢
    rw [hexact]
    exact nearestEven_pack_assemble hrounds hfin

/-- Settles O47: the root packs the exact root rounded once, and its exponent is far below the largest. -/
theorem squareRootRoundsToNearestEven : Obligations.SquareRootRoundsToNearestEven := by
  intro x hx hs
  exact ⟨Binary64.isFinite_sqrt hx hs, nearestEven_sqrt hx hs⟩

end Sys2Proof.Machine
end

section
/-! Which steps stand where in the operations (R121 to R182), as far as an invariant over sequencer positions needs it. -/

namespace Sys2Proof.Machine

/-- The step ends its operation: the caller has its result (R92), or its `CLOSE` is answered (R182). -/
def Micro.ends : Micro → Bool
  | .close | .returnDone | .returnByte | .returnBytes | .returnReading | .returnTemperature _ => true
  | _ => false

/-- The step belongs to a frame, or is the delay between two: it leaves the lock, the bank and the reading alone. -/
def Micro.transfers : Micro → Bool
  | .wr _ _ | .clearAcc | .sample | .keep | .delay => true
  | _ => false

/-! ### Steps of frames -/

theorem sendByte_transfers (v : Byte) : (sendByte v).all Micro.transfers = true := rfl

theorem recvByte_transfers : recvByte.all Micro.transfers = true := rfl

theorem recvBytes_transfers (n : Nat) : (recvBytes n).all Micro.transfers = true := by
  have one : (recvByte ++ [Micro.keep]).all Micro.transfers = true := rfl
  simp only [recvBytes, List.all_flatten, List.all_replicate, one, ite_self]

theorem writeFrameSteps_transfers (a v : Byte) : (writeFrameSteps a v).all Micro.transfers = true := rfl

theorem readFrameSteps_transfers (a : Byte) (n : Nat) : (readFrameSteps a n).all Micro.transfers = true := by
  simp only [readFrameSteps, List.all_append, sendByte_transfers, recvBytes_transfers]
  rfl

/-- The steps of an acquisition between its `lock()` and its read-back (R141 to R144). -/
def acquisitionFrames : List Micro :=
  writeFrameSteps (writeAddress 0x00) Config.configTrigger ++ [.delay] ++
    readFrameSteps (readAddress 0x00) Config.nregs

theorem acquisitionFrames_transfers : acquisitionFrames.all Micro.transfers = true := by
  simp only [acquisitionFrames, List.all_append, writeFrameSteps_transfers, readFrameSteps_transfers]
  rfl

theorem count_keep_acquisitionFrames : acquisitionFrames.count .keep = 8 := by decide +kernel

theorem acquisition_eq : acquisition = .lock :: (acquisitionFrames ++ [.bank, .unlock, .decode, .count]) := by
  simp [acquisition, acquisitionFrames]

/-! ### A step in its place -/

/-- What the place of a step in an operation other than `INIT` says; `pre` stands before it and `post` after. -/
structure Fits (pre : List Micro) (m : Micro) (post : List Micro) : Prop where
  notBuild : m ≠ .build
  notModeOut : ∀ p, m ≠ .modeOut p
  notModeIn : ∀ p, m ≠ .modeIn p
  ends_iff : m.ends = true ↔ post = []
  lock : m = .lock → .unlock ∉ pre
  bank : m = .bank → pre.count .keep = 8
  released : m.ends = true → .lock ∈ pre → .unlock ∈ pre

theorem Micro.ends_of_transfers {m : Micro} (h : m.transfers = true) : m.ends = false := by
  cases m <;> trivial

/-- A step of a frame, with others to follow, may stand anywhere. -/
theorem fits_of_transfers {m : Micro} (hm : m.transfers = true) (pre : List Micro) {post : List Micro}
    (hp : post ≠ []) : Fits pre m post where
  notBuild := by rintro rfl; cases hm
  notModeOut := by rintro p rfl; cases hm
  notModeIn := by rintro p rfl; cases hm
  ends_iff := by simp [Micro.ends_of_transfers hm, hp]
  lock := by rintro rfl; cases hm
  bank := by rintro rfl; cases hm
  released := by simp [Micro.ends_of_transfers hm]

/-- A step that ends its operation stands last, with the lock not held. -/
theorem fits_of_ends {m : Micro} (hm : m.ends = true) {pre : List Micro} (h : .lock ∈ pre → .unlock ∈ pre) :
    Fits pre m [] where
  notBuild := by rintro rfl; cases hm
  notModeOut := by rintro p rfl; cases hm
  notModeIn := by rintro p rfl; cases hm
  ends_iff := by simp [hm]
  lock := by rintro rfl; cases hm
  bank := by rintro rfl; cases hm
  released := fun _ => h

/-- An operation that only transfers, and returns. -/
theorem fits_transfer {xs pre post : List Micro} {r m : Micro} (hx : xs.all Micro.transfers = true)
    (hr : r.ends = true) (h : xs ++ [r] = pre ++ m :: post) : Fits pre m post := by
  have no_lock : .lock ∉ xs := fun hl => Bool.false_ne_true (List.all_eq_true.1 hx _ hl)
  rcases List.eq_nil_or_concat post with rfl | ⟨post, z, rfl⟩
  · obtain ⟨rfl, e⟩ := List.append_inj' h rfl
    obtain rfl := List.singleton_inj.1 e
    exact fits_of_ends hr fun hl => absurd hl no_lock
  · rw [List.concat_eq_append, ← List.cons_append, ← List.append_assoc] at h
    obtain ⟨rfl, -⟩ := List.append_inj' h rfl
    exact fits_of_transfers (List.all_eq_true.1 hx m (by simp)) pre (by simp)

/-- The steps of an acquisition after its frames. -/
theorem fits_after_frames {xs l post : List Micro} {r m : Micro} (hk : xs.count .keep = 8) (hr : r.ends = true)
    (h : [.bank, .unlock, .decode, .count, r] = l ++ m :: post) : Fits (.lock :: (xs ++ l)) m post := by
  simp only [List.cons_eq_append_iff, List.cons.injEq, List.nil_eq, List.append_eq_nil_iff, reduceCtorEq, and_false,
    exists_const, or_false, ↓existsAndEq, true_and] at h
  obtain ⟨rfl, rfl, rfl⟩ | ⟨_, rfl, ⟨rfl, rfl, rfl⟩ | ⟨_, rfl, ⟨rfl, rfl, rfl⟩ | ⟨_, rfl, ⟨rfl, rfl, rfl⟩ |
    ⟨rfl, rfl, rfl⟩⟩⟩⟩ := h
  case inr => exact fits_of_ends hr (by simp)
  all_goals constructor <;> simp [Micro.ends, hk]

/-- An acquisition, and what it returns. -/
theorem fits_acquisition {pre post : List Micro} {r m : Micro} (hr : r.ends = true)
    (h : acquisition ++ [r] = pre ++ m :: post) : Fits pre m post := by
  rw [acquisition_eq, List.cons_append, List.append_assoc] at h
  rcases pre with _ | ⟨a, pre⟩
  · obtain ⟨rfl, rfl⟩ := List.cons.inj h
    constructor <;> simp [Micro.ends]
  · obtain ⟨rfl, htail⟩ := List.cons.inj h
    rcases List.append_eq_append_iff.1 htail with ⟨l, rfl, hl⟩ | ⟨_ | ⟨x, l⟩, hf, hl⟩
    · exact fits_after_frames count_keep_acquisitionFrames hr hl
    · rw [List.append_nil] at hf
      rw [← hf, ← List.append_nil acquisitionFrames]
      exact fits_after_frames count_keep_acquisitionFrames hr hl.symm
    · obtain ⟨rfl, rfl⟩ := List.cons.inj hl
      have moves : m ∈ acquisitionFrames := by simp [hf]
      exact fits_of_transfers (List.all_eq_true.1 acquisitionFrames_transfers m moves) _ (by simp)

/-- Every step of an operation other than `INIT` fits its place. -/
theorem steps_fits {i : Instr} {pre post : List Micro} {m : Micro} (hi : i ≠ .init)
    (h : steps i = pre ++ m :: post) : Fits pre m post := by
  cases i with
  | init => exact absurd rfl hi
  | sendbyte v => exact fits_transfer (sendByte_transfers v) rfl h
  | recvbyte => exact fits_transfer recvByte_transfers rfl h
  | writereg a v => exact fits_transfer (writeFrameSteps_transfers (writeAddress a) v) rfl h
  | readregs a n => exact fits_transfer (readFrameSteps_transfers (readAddress a) n.toNat) rfl h
  | writeFrame x v => exact fits_transfer (writeFrameSteps_transfers (frameAddress x) v) rfl h
  | readFrame a n => exact fits_transfer (readFrameSteps_transfers a n.toNat) rfl h
  | acquire | tempExact | tempPoly3 | tempPoly4 | tempPoly5 => exact fits_acquisition rfl h
  | close =>
    obtain ⟨rfl, rfl, rfl⟩ : pre = [] ∧ m = .close ∧ post = [] := by
      simpa [steps, stepsClose, List.cons_eq_append_iff] using h
    exact fits_of_ends rfl (by simp)

theorem steps_ne_nil (i : Instr) : steps i ≠ [] := by
  cases i <;> simp [steps, stepsInit, stepsSendbyte, stepsRecvbyte, stepsWritereg, stepsReadregs, stepsAcquire,
    stepsTempExact, stepsTempPoly3, stepsTempPoly4, stepsTempPoly5, stepsClose, stepsWriteFrame, stepsReadFrame]

/-! ### Sequencer positions -/

/-- The position after one more step. -/
def Seq.succ (q : Seq) : Seq := { q with pos := q.pos + 1 }

@[simp] theorem Seq.succ_op (q : Seq) : q.succ.op = q.op := rfl

theorem Seq.past_succ {q : Seq} {m : Micro} (h : q.next = some m) : q.succ.past = q.past ++ [m] := by
  unfold Seq.next at h
  simp [Seq.past, Seq.succ, List.take_add_one, h]

/-- A position cuts an operation into the steps done, the next step, and the steps that follow it. -/
theorem Seq.steps_eq {q : Seq} {m : Micro} (h : q.next = some m) :
    steps q.op = q.past ++ m :: (steps q.op).drop q.succ.pos := by
  obtain ⟨hlt, rfl⟩ := List.getElem?_eq_some_iff.1 h
  rw [Seq.past, Seq.succ, ← List.drop_eq_getElem_cons, List.take_append_drop]

theorem Seq.fits {q : Seq} {m : Micro} (hi : q.op ≠ .init) (h : q.next = some m) :
    Fits q.past m ((steps q.op).drop q.succ.pos) := steps_fits hi (Seq.steps_eq h)

end Sys2Proof.Machine
end

section
/-! What one step of an operation can do, said once (R110 to R115, R62, R63, R121 to R182). -/

namespace Sys2Proof.Machine

/-- The steps that complete, each with its guard and the state it leaves. -/
inductive Performed (s : State) : Micro → State → Prop where
  | modeOut (p : Role) : Performed s (.modeOut p) ((s.setMode p .out).emit (.modeOut p))
  | modeIn (p : Role) : Performed s (.modeIn p) ((s.setMode p .input).emit (.modeIn p))
  | wr (p : OutPin) (l : Level) (h : s.mode p.role = .out) : Performed s (.wr p l) ((s.setPin p l).emit (.wr p l))
  | clearAcc : Performed s .clearAcc { s with caller := { s.caller with acc := 0 } }
  | sample (h : s.modeSdi = .input) :
      Performed s .sample (State.emit { s with
        answers := s.answers.tail
        samples := s.samples + 1
        caller := { s.caller with acc := shiftIn s.caller.acc s.sdi } } (.rd s.sdi))
  | keep : Performed s .keep { s with caller := { s.caller with out := s.caller.out ++ [s.caller.acc] } }
  | delay : Performed s .delay (s.emit .delay)
  | lock (h : s.lock = .free) : Performed s .lock { s with lock := .held s.caller.id }
  | unlock (h : s.lock = .held s.caller.id) : Performed s .unlock { s with lock := .free }
  | bank : Performed s .bank { s with caller := { s.caller with bank := s.caller.out } }
  | decode (r : Reading) (h : decodeBank s.caller.bank = some r) :
      Performed s .decode { s with caller := { s.caller with reading := some r } }
  | count (r : Reading) (h : s.caller.reading = some r) :
      Performed s .count { s with
        good := s.good + (if goodStatus r.status then 1 else 0)
        bad := s.bad + (if goodStatus r.status then 0 else 1) }
  | build : Performed s .build s.build
  | close (hl : s.life = .ready) (hq : s.quiet = true) :
      Performed s .close { s.finish (.counters s.good s.bad) with life := .closed }
  | closeNotReady (hl : s.life = .unbuilt) : Performed s .close { s.refuse .notReady with caller := s.caller.vacate }
  | closeClosed (hl : s.life = .closed) : Performed s .close { s.refuse .closed with caller := s.caller.vacate }
  | returnDone : Performed s .returnDone (s.finish .done)
  | returnByte : Performed s .returnByte (s.finish (.byte s.caller.acc))
  | returnBytes : Performed s .returnBytes (s.finish (.bytes s.caller.out))
  | returnReading (r : Reading) (h : s.caller.reading = some r) : Performed s .returnReading (s.finish (.reading r))
  | returnTemperature (k : Strategy) (r : Reading) (h : s.caller.reading = some r) :
      Performed s (.returnTemperature k) { s with
        domainFault := s.domainFault || (conv k r.ohms).isNone
        caller := s.caller.finish
          (match conv k r.ohms with
            | some t => .temperature t r.status
            | none => .domainFault) }

theorem performed_of_closeStep {s t : State} (h : s.closeStep = .done t) : Performed s .close t := by
  unfold State.closeStep at h
  split at h
  next hl =>
    split at h
    next hq => cases h; exact .close hl hq
    next => cases h
  next hl => cases h; exact .closeNotReady hl
  next hl => cases h; exact .closeClosed hl

/-- A step that completes is one of these. -/
theorem performed_of_done {s t : State} {m : Micro} (h : s.perform m = .done t) : Performed s m t := by
  cases m with
  | modeOut p => cases h; exact .modeOut p
  | modeIn p => cases h; exact .modeIn p
  | clearAcc => cases h; exact .clearAcc
  | keep => cases h; exact .keep
  | delay => cases h; exact .delay
  | bank => cases h; exact .bank
  | build => cases h; exact .build
  | returnDone => cases h; exact .returnDone
  | returnByte => cases h; exact .returnByte
  | returnBytes => cases h; exact .returnBytes
  | close => exact performed_of_closeStep h
  | wr p l =>
    simp only [State.perform, State.wr] at h
    split at h <;> cases h
    exact .wr p l ‹_›
  | sample =>
    simp only [State.perform, State.sample] at h
    split at h <;> cases h
    exact .sample ‹_›
  | lock =>
    simp only [State.perform, State.takeLock] at h
    split at h <;> cases h
    exact .lock ‹_›
  | unlock =>
    simp only [State.perform, State.releaseLock] at h
    split at h <;> cases h
    exact .unlock ‹_›
  | decode =>
    simp only [State.perform, State.decodeStep] at h
    split at h <;> cases h
    exact .decode _ ‹_›
  | count =>
    simp only [State.perform, State.count] at h
    split at h <;> cases h
    exact .count _ ‹_›
  | returnReading =>
    simp only [State.perform, State.returnReading] at h
    split at h <;> cases h
    exact .returnReading _ ‹_›
  | returnTemperature k =>
    simp only [State.perform, State.returnTemperature] at h
    split at h <;> cases h
    exact .returnTemperature k _ ‹_›

namespace Performed

variable {s t : State} {m : Micro}

/-! ### The callers -/

theorem others (h : Performed s m t) : t.others = s.others := by
  cases h <;> simp

theorem caller_id (h : Performed s m t) : t.caller.id = s.caller.id := by
  cases h <;> simp

/-- A step that ends its operation leaves none in progress, and no other step touches the position. -/
theorem caller_seq (h : Performed s m t) : t.caller.seq = if m.ends then none else s.caller.seq := by
  cases h <;> simp [Micro.ends]

theorem out_length (h : Performed s m t) (hm : m.ends = false) :
    t.caller.out.length = s.caller.out.length + [m].count .keep := by
  cases h <;> simp_all [Micro.ends]

theorem bank_length (h : Performed s m t) (hm : m.ends = false) :
    t.caller.bank.length = if m = .bank then s.caller.out.length else s.caller.bank.length := by
  cases h <;> simp_all [Micro.ends]

theorem reading_isSome (h : Performed s m t) (hm : m.ends = false) :
    t.caller.reading.isSome = (m == .decode || s.caller.reading.isSome) := by
  cases h <;> simp_all [Micro.ends]

/-! ### The lock -/

theorem lock_eq (h : Performed s m t) (hb : m ≠ .build) (hl : m ≠ .lock) (hu : m ≠ .unlock) : t.lock = s.lock := by
  cases h <;> simp_all

theorem of_lock (h : Performed s .lock t) : s.lock = .free ∧ t.lock = .held s.caller.id := by
  cases h; simp_all

theorem of_unlock (h : Performed s .unlock t) : s.lock = .held s.caller.id ∧ t.lock = .free := by
  cases h; simp_all

/-! ### Life, counters and pins -/

/-- `LIFE` changes by construction, and by a `CLOSE` that finds no other operation in progress and the lock free. -/
theorem life (h : Performed s m t) (hb : m ≠ .build) :
    t.life = s.life ∨ m = .close ∧ s.life = .ready ∧ t.life = .closed ∧ s.quiet = true := by
  cases h <;> simp_all

theorem counters (h : Performed s m t) (hb : m ≠ .build) : s.good ≤ t.good ∧ s.bad ≤ t.bad := by
  cases h <;> simp_all

theorem mode_eq (h : Performed s m t) (ho : ∀ p, m ≠ .modeOut p) (hi : ∀ p, m ≠ .modeIn p) : t.mode = s.mode := by
  cases h with
  | modeOut p => exact absurd rfl (ho p)
  | modeIn p => exact absurd rfl (hi p)
  | _ => funext r; cases r <;> simp [State.mode]

/-- Only a write to a pin changes its level. -/
theorem pin_of_ne (h : Performed s m t) (p : OutPin) (hp : ∀ l, m ≠ .wr p l) : t.pin p = s.pin p := by
  cases h with
  | wr q l =>
    have hne : p ≠ q := fun e => hp l (by rw [e])
    simp [hne]
  | _ => cases p <;> simp [State.pin]

theorem pin_of_wr {p : OutPin} {l : Level} (h : Performed s (.wr p l) t) : t.pin p = some l := by
  cases h; simp

end Performed

end Sys2Proof.Machine
end

section
/-! What a step of the machine is made of: a refusal, the construction, or steps of one operation in their order. -/

namespace Sys2Proof.Machine

/-! ### Construction -/

/-- The block as `INIT` leaves it: the modes and idle levels of R180, counters at 0, `LOCK` free, `LIFE` ready. -/
def State.constructed (s : State) : State :=
  { s with
    modeCs := .out
    modeClk := .out
    modeSdo := .out
    modeSdi := .input
    pinCs := some .high
    pinClk := some .low
    pinSdo := some .low
    good := 0
    bad := 0
    lock := .free
    life := .ready
    trace := s.trace ++ s.events setupTokens
    caller := s.caller.finish .done }

theorem perform_wr {s : State} {p : OutPin} {l : Level} (h : s.mode p.role = .out) :
    s.perform (.wr p l) = .done ((s.setPin p l).emit (.wr p l)) := if_pos h

theorem completes_init (s : State) : Completes (s.accept .init) stepsInit s.constructed := by
  refine ⟨_, rfl, _, rfl, _, rfl, _, rfl, _, perform_wr rfl, _, perform_wr rfl, _, perform_wr rfl, _, rfl, _, rfl, ?_⟩
  simp [Completes, State.constructed, State.accept, State.modeOut, State.modeIn, State.setMode, State.setPin,
    State.emit, State.advance, State.build, State.finish, Caller.finish, Caller.vacate, State.events, setupTokens]

theorem exec_init_of_unbuilt {s : State} (hl : s.life = .unbuilt) (hq : s.caller.seq = none) :
    exec .init s = .next s.constructed := by
  have admitted : exec .init s = (s.accept .init).performAll stepsInit := by
    simp [exec_eq_operate, State.operate, hq, hl, admission, steps]
  rw [admitted, (completes_init s).performAll]

theorem admission_eq_none {i : Instr} {life : Life} (h : admission i life = none) :
    (i = .init ∧ life = .unbuilt) ∨ (i ≠ .init ∧ life = .ready) := by
  cases life <;> by_cases hi : i = .init <;> simp_all [admission]

/-! ### Steps of an operation in progress -/

/-- The caller being served performs `m`, the step its position `q` stands at. -/
structure Advance (q : Seq) (m : Micro) (s t : State) : Prop where
  seq : s.caller.seq = some q
  next : q.next = some m
  performed : ∃ u, Performed s m u ∧ t = u.advance

/-- The caller being served performs the next step of its operation. -/
def Advances (s t : State) : Prop := ∃ q m, Advance q m s t

theorem Advance.caller_seq {q : Seq} {m : Micro} {s t : State} (h : Advance q m s t) :
    t.caller.seq = if m.ends then none else some q.succ := by
  obtain ⟨hq, -, u, hu, rfl⟩ := h
  rw [State.advance_caller_seq, hu.caller_seq, hq]
  cases m.ends <;> rfl

theorem Advance.seq_of_ends {q : Seq} {m : Micro} {s t : State} (h : Advance q m s t) (hm : m.ends = true) :
    t.caller.seq = none := by
  simp [h.caller_seq, hm]

theorem Advance.seq_of_not_ends {q : Seq} {m : Micro} {s t : State} (h : Advance q m s t) (hm : m.ends = false) :
    t.caller.seq = some q.succ := by
  simp [h.caller_seq, hm]

theorem advances_of_completes {i : Instr} (hi : i ≠ .init) {xs : List Micro} :
    ∀ {pre zs : List Micro} {s t : State}, steps i = pre ++ xs ++ zs →
      (xs ≠ [] → s.caller.seq = some ⟨i, pre.length⟩) → Completes s xs t → Relation.ReflTransGen Advances s t := by
  induction xs with
  | nil => intro pre zs s t _ _ h; cases h; exact .refl
  | cons m ms ih =>
    intro pre zs s t hs hq ⟨u, hu, hr⟩
    have fits : Fits pre m (ms ++ zs) := steps_fits hi (by simpa using hs)
    have adv : Advance ⟨i, pre.length⟩ m s u.advance :=
      ⟨hq (by simp), by simp [Seq.next, hs], u, performed_of_done hu, rfl⟩
    refine .head ⟨_, _, adv⟩ (ih (pre := pre ++ [m]) (zs := zs) (by simpa using hs) ?_ hr)
    intro hms
    have more : m.ends = false := by
      rw [Bool.eq_false_iff, Ne, fits.ends_iff]
      simp [hms]
    rw [adv.seq_of_not_ends more, List.length_append]
    rfl

/-! ### The shape of a step -/

/-- What serving `u` leads to. -/
inductive StepShape (u t : State) : Prop where
  /-- Nothing moves. -/
  | idle (h : t = u)
  /-- The issued word is refused. -/
  | refused (rest : List PortWord) (r : RefuseReason) (h : t = (taken u rest).refuse r)
  /-- The block is constructed. -/
  | constructed (rest : List PortWord) (hl : u.life = .unbuilt) (h : t = (taken u rest).constructed)
  /-- An operation is accepted, and some of its steps are performed. -/
  | begun (rest : List PortWord) (i : Instr) (hi : i ≠ .init) (hl : u.life = .ready) (hq : u.caller.seq = none)
      (h : Relation.ReflTransGen Advances ((taken u rest).accept i) t)
  /-- The operation in progress performs its next step. -/
  | advanced (h : Advances u t)

theorem stepShape_of_exec {u t : State} {rest : List PortWord} {i : Instr} (h : exec i (taken u rest) = .next t) :
    StepShape u t := by
  obtain ⟨hq, ⟨r, -, rfl⟩ | ⟨ha, hp⟩⟩ := operate_cases ((exec_eq_operate ..).symm.trans h)
  · exact .refused rest r rfl
  · obtain ⟨rfl, hl⟩ | ⟨hi, hl⟩ := admission_eq_none ha
    · rw [exec_init_of_unbuilt hl hq] at h
      cases h
      exact .constructed rest hl rfl
    · obtain ⟨ys, zs, hs, hc, -⟩ := performAll_cases hp
      exact .begun rest i hi hl hq (advances_of_completes hi (pre := []) (zs := zs) hs (fun _ => rfl) hc)

/-- A step chooses a caller, and serving it has one of these shapes. -/
theorem step_shape {s t : State} (h : step s = .next t) : ∃ u, Serves s u ∧ StepShape u t := by
  obtain ⟨u, hs, hc⟩ := step_cases h
  refine ⟨u, hs, ?_⟩
  cases hc with
  | idle ht => exact .idle ht
  | resume q m v hq hm hv ht => exact .advanced ⟨q, m, hq, hm, v, performed_of_done hv, ht⟩
  | illegal w rest e hq hp hd ht => exact .refused rest _ ht
  | whole w rest i hq hp hd ha ht => exact stepShape_of_exec ht
  | refused w rest i r hq hp hd hi hr ht => exact .refused rest r ht
  | accepted w rest i hq hp hd hi hr ht =>
    obtain ⟨rfl, -⟩ | ⟨-, hl⟩ := admission_eq_none hr
    · exact absurd rfl hi
    · exact .begun rest i hi hl hq (ht ▸ .refl)

/-- What choosing a caller, taking a word, a refusal, the construction, the acceptance of an operation and every step of
one keep, a step of the machine keeps. -/
theorem step_keeps {P : State → Prop} {s t : State} (serves : ∀ u, Serves s u → P s → P u)
    (takes : ∀ u rest, P u → P (taken u rest)) (refuses : ∀ u r, P u → P (u.refuse r))
    (constructs : ∀ u, u.life = .unbuilt → P u → P u.constructed)
    (accepts : ∀ u i, i ≠ .init → u.life = .ready → u.caller.seq = none → P u → P (u.accept i))
    (advances : ∀ u v, Advances u v → P u → P v) (h : step s = .next t) (hs : P s) : P t := by
  obtain ⟨u, hu, shape⟩ := step_shape h
  have hPu := serves u hu hs
  cases shape with
  | idle ht => exact ht ▸ hPu
  | refused rest r ht => exact ht ▸ refuses _ r (takes u rest hPu)
  | constructed rest hl ht => exact ht ▸ constructs _ hl (takes u rest hPu)
  | begun rest i hi hl hq hc =>
    have hPi := accepts (taken u rest) i hi hl hq (takes u rest hPu)
    clear h
    induction hc with
    | refl => exact hPi
    | tail _ hv ih => exact advances _ _ hv ih
  | advanced ha => exact advances u t ha hPu

end Sys2Proof.Machine
end

section
/-! The invariant of every run (R39): it holds at reset, and every step keeps it (O48, O49). -/

namespace Sys2Proof.Machine

/-! ### The parts of the invariant -/

/-- The pins of a constructed block: configured, and each with a level (R21, R22). -/
def State.wired (s : State) : Prop := s.configured ∧ ∀ p, (s.pin p).isSome = true

theorem State.wired_iff (s : State) :
    s.wired ↔ s.configured ∧ s.pinCs.isSome ∧ s.pinClk.isSome ∧ s.pinSdo.isSome := by
  refine and_congr_right fun _ => ⟨fun h => ⟨h .cs, h .clk, h .sdo⟩, fun ⟨hcs, hclk, hsdo⟩ p => ?_⟩
  cases p
  · exact hcs
  · exact hclk
  · exact hsdo

theorem State.lifeAgrees_iff (s : State) :
    s.lifeAgrees ↔ (s.life = .unbuilt → ∀ c ∈ s.callers, c.seq = none) ∧ (s.life ≠ .unbuilt → s.wired) ∧
      (s.life = .closed → ∀ c ∈ s.callers, c.busy = false) := by
  unfold State.lifeAgrees
  split <;> rename_i hl <;> simp [hl, s.wired_iff]

/-- The holder of `LOCK` is the caller in its critical section. -/
theorem State.lockAgrees_iff (s : State) :
    s.lockAgrees ↔ ∀ h, s.lock = .held h ↔ ∃ c ∈ s.callers, c.id = h ∧ c.inCritical = true := by
  unfold State.lockAgrees
  split
  next hl =>
    simp only [hl, reduceCtorEq, false_iff, not_exists, not_and, Bool.not_eq_true]
    exact ⟨fun h _ c hc _ => h c hc, fun h c hc => h c.id c hc rfl⟩
  next k hl =>
    rw [hl]
    simp only [Lock.held.injEq]
    constructor
    · rintro ⟨⟨c, hc, rfl, hcrit⟩, only⟩ h
      exact ⟨fun e => ⟨c, hc, e, hcrit⟩, fun ⟨d, hd, e, hdcrit⟩ => (only d hd hdcrit).symm.trans e⟩
    · intro holder
      exact ⟨(holder k).1 rfl, fun c hc hcrit => ((holder c.id).2 ⟨c, hc, rfl, hcrit⟩).symm⟩

theorem Caller.inCritical_of_none {c : Caller} (h : c.seq = none) : c.inCritical = false := by
  simp [Caller.inCritical, h]

theorem Caller.inCritical_of_some {c : Caller} {q : Seq} (h : c.seq = some q) :
    c.inCritical = (q.past.contains .lock && !q.past.contains .unlock) := by
  simp [Caller.inCritical, h]

theorem Caller.busy_of_none {c : Caller} (h : c.seq = none) : c.busy = false := by
  simp [Caller.busy, h]

theorem Caller.busy_of_some {c : Caller} {q : Seq} (h : c.seq = some q) : c.busy = decide (q.op ≠ .close) := by
  simp [Caller.busy, h]

theorem Caller.placed_of_none {c : Caller} (h : c.seq = none) : c.placed := by
  simp [Caller.placed, h]

theorem Caller.placed_iff_of_some {c : Caller} {q : Seq} (h : c.seq = some q) :
    c.placed ↔ q.op ≠ .init ∧ q.pos < (steps q.op).length ∧ c.out.length = q.past.count .keep ∧
      (q.past.contains .bank = true → c.bank.length = 8) ∧
      (q.past.contains .decode = true → c.reading.isSome = true) := by
  simp only [Caller.placed, h]

/-! ### Choosing a caller -/

namespace Serves

variable {s u : State}

theorem lock (h : Serves s u) : u.lock = s.lock := by rw [← h.rest]
theorem life (h : Serves s u) : u.life = s.life := by rw [← h.rest]
theorem good (h : Serves s u) : u.good = s.good := by rw [← h.rest]
theorem bad (h : Serves s u) : u.bad = s.bad := by rw [← h.rest]
theorem pin (h : Serves s u) : u.pin = s.pin := by rw [← h.rest]; rfl
theorem mode (h : Serves s u) : u.mode = s.mode := by rw [← h.rest]; rfl
theorem wired (h : Serves s u) : u.wired ↔ s.wired := by rw [← h.rest]; rfl

theorem inv (h : Serves s u) (hs : Safety.Inv s) : Safety.Inv u := by
  obtain ⟨hnames, hlock, hlife, hplaced⟩ := hs
  rw [State.lockAgrees_iff] at hlock
  rw [State.lifeAgrees_iff] at hlife
  refine ⟨(h.perm.map _).nodup_iff.2 hnames, u.lockAgrees_iff.2 ?_, u.lifeAgrees_iff.2 ?_, ?_⟩
  · simpa only [h.lock, h.perm.mem_iff] using hlock
  · simpa only [h.life, h.perm.mem_iff, h.wired] using hlife
  · simpa only [h.perm.mem_iff] using hplaced

end Serves

/-! ### Serving the caller -/

section

variable {s t : State} (ho : t.others = s.others) (hid : t.caller.id = s.caller.id)
include ho hid

/-- Serving a caller leaves the names and the other callers' positions as they are. -/
theorem inv_of_caller (hs : Safety.Inv s) (hlock : t.lockAgrees) (hlife : t.lifeAgrees) (hplaced : t.caller.placed) :
    Safety.Inv t := by
  obtain ⟨hnames, -, -, hothers⟩ := hs
  refine ⟨?_, hlock, hlife, List.forall_mem_cons.2 ⟨hplaced, ?_⟩⟩
  · simpa only [State.namesDistinct, State.callers, List.map_cons, ho, hid] using hnames
  · rw [ho]
    exact (List.forall_mem_cons.1 hothers).2

theorem lockAgrees_of_caller (hs : s.lockAgrees) (hlock : t.lock = s.lock)
    (hcrit : t.caller.inCritical = s.caller.inCritical) : t.lockAgrees := by
  rw [State.lockAgrees_iff] at hs ⊢
  simpa only [State.callers, List.exists_mem_cons_iff, ho, hid, hlock, hcrit] using hs

theorem lockAgrees_of_lock (hs : s.lockAgrees) (hfree : s.lock = .free) (hheld : t.lock = .held s.caller.id)
    (hcrit : t.caller.inCritical = true) : t.lockAgrees := by
  simp only [State.lockAgrees, hfree, State.callers, List.forall_mem_cons] at hs
  simp only [State.lockAgrees, hheld, State.callers, List.exists_mem_cons_iff, List.forall_mem_cons, ho]
  refine ⟨.inl ⟨hid, hcrit⟩, fun _ => hid, fun c hc hcrit => ?_⟩
  rw [hs.2 c hc] at hcrit
  cases hcrit

omit hid in
theorem lockAgrees_of_unlock (hnames : s.namesDistinct) (hs : s.lockAgrees) (hheld : s.lock = .held s.caller.id)
    (hfree : t.lock = .free) (hcrit : t.caller.inCritical = false) : t.lockAgrees := by
  simp only [State.lockAgrees, hheld, State.callers, List.forall_mem_cons] at hs
  simp only [State.lockAgrees, hfree, State.callers, List.forall_mem_cons, ho]
  refine ⟨hcrit, fun c hc => Bool.eq_false_iff.2 fun hother => ?_⟩
  have same : c.id = s.caller.id := hs.2.2 c hc hother
  rw [State.namesDistinct, State.callers, List.map_cons, List.nodup_cons] at hnames
  exact hnames.1 (same ▸ List.mem_map_of_mem hc)

end

theorem lifeAgrees_of_caller {s t : State} (ho : t.others = s.others) (hs : s.lifeAgrees) (hlife : t.life = s.life)
    (hw : s.wired → t.wired) (hseq : s.life = .unbuilt → t.caller.seq = none)
    (hbusy : s.life = .closed → t.caller.busy = false) : t.lifeAgrees := by
  obtain ⟨hidle, hwired, hclosed⟩ := s.lifeAgrees_iff.1 hs
  rw [State.lifeAgrees_iff, hlife]
  simp only [State.callers, List.forall_mem_cons, ho] at *
  exact ⟨fun h => ⟨hseq h, (hidle h).2⟩, hw ∘ hwired, fun h => ⟨hbusy h, (hclosed h).2⟩⟩

/-- The port is no part of the invariant. -/
theorem inv_taken {u : State} (rest : List PortWord) (h : Safety.Inv u) : Safety.Inv (taken u rest) := by
  obtain ⟨-, hlock, hlife, hplaced⟩ := id h
  obtain ⟨hidle, -, hclosed⟩ := u.lifeAgrees_iff.1 hlife
  refine inv_of_caller (s := u) rfl rfl h (lockAgrees_of_caller (s := u) rfl rfl hlock rfl rfl)
    (lifeAgrees_of_caller (s := u) rfl hlife rfl id ?_ ?_) (List.forall_mem_cons.1 hplaced).1
  · exact fun hl => (List.forall_mem_cons.1 (hidle hl)).1
  · exact fun hl => (List.forall_mem_cons.1 (hclosed hl)).1

theorem inv_of_idle {s : State} (hnames : s.namesDistinct) (hidle : ∀ c ∈ s.callers, c.seq = none)
    (hfree : s.lock = .free) (hwired : s.life ≠ .unbuilt → s.wired) : Safety.Inv s := by
  refine ⟨hnames, ?_, ?_, fun c hc => Caller.placed_of_none (hidle c hc)⟩
  · simp only [State.lockAgrees, hfree]
    exact fun c hc => Caller.inCritical_of_none (hidle c hc)
  · exact s.lifeAgrees_iff.2 ⟨fun _ => hidle, hwired, fun _ c hc => Caller.busy_of_none (hidle c hc)⟩

theorem wired_constructed (s : State) : s.constructed.wired :=
  s.constructed.wired_iff.2 ⟨⟨rfl, rfl, rfl, rfl⟩, rfl, rfl, rfl⟩

theorem inv_constructed {u : State} (hl : u.life = .unbuilt) (h : Safety.Inv u) : Safety.Inv u.constructed := by
  obtain ⟨hnames, -, hlife, -⟩ := h
  obtain ⟨-, hothers⟩ := List.forall_mem_cons.1 ((u.lifeAgrees_iff.1 hlife).1 hl)
  exact inv_of_idle hnames (List.forall_mem_cons.2 ⟨rfl, hothers⟩) rfl fun _ => wired_constructed u

theorem placed_accept (s : State) {i : Instr} (hi : i ≠ .init) : (s.accept i).caller.placed := by
  rw [Caller.placed_iff_of_some (q := ⟨i, 0⟩) rfl]
  exact ⟨hi, List.length_pos_iff.2 (steps_ne_nil i), rfl, by simp [Seq.past], by simp [Seq.past]⟩

theorem inv_accept {u : State} {i : Instr} (hi : i ≠ .init) (hl : u.life = .ready) (hq : u.caller.seq = none)
    (h : Safety.Inv u) : Safety.Inv (u.accept i) := by
  obtain ⟨-, hlock, hlife, -⟩ := id h
  refine inv_of_caller (s := u) rfl rfl h (lockAgrees_of_caller (s := u) rfl rfl hlock rfl ?_)
    (lifeAgrees_of_caller (s := u) rfl hlife rfl id ?_ ?_) (placed_accept _ hi)
  · rw [Caller.inCritical_of_none hq]
    rfl
  · simp [hl]
  · simp [hl]

/-! ### A step of an operation in progress -/

/-- No caller of the invariant is inside `INIT`, so the step it performs fits its place. -/
theorem Advance.fits {q : Seq} {m : Micro} {s t : State} (h : Advance q m s t) (hs : Safety.Inv s) :
    Fits q.past m ((steps q.op).drop q.succ.pos) := by
  obtain ⟨-, -, -, hplaced⟩ := hs
  obtain ⟨hop, -⟩ := (Caller.placed_iff_of_some h.seq).1 (List.forall_mem_cons.1 hplaced).1
  exact Seq.fits hop h.next

/-- Only a constructed block has an operation in progress. -/
theorem Advance.built {q : Seq} {m : Micro} {s t : State} (h : Advance q m s t) (hs : Safety.Inv s) :
    s.life ≠ .unbuilt := by
  obtain ⟨-, -, hlife, -⟩ := hs
  intro hl
  have idle := (List.forall_mem_cons.1 ((s.lifeAgrees_iff.1 hlife).1 hl)).1
  rw [h.seq] at idle
  cases idle

section

variable {q : Seq} {m : Micro} {s t : State} (h : Advance q m s t)
include h

theorem Advance.others : t.others = s.others := by
  obtain ⟨-, -, u, hu, rfl⟩ := h
  exact hu.others

theorem Advance.caller_id : t.caller.id = s.caller.id := by
  obtain ⟨-, -, u, hu, rfl⟩ := h
  exact hu.caller_id

/-- The locals follow the steps done, and a step that is not the last leaves a position within the operation. -/
theorem Advance.placed (hs : Safety.Inv s) : t.caller.placed := by
  have fits := h.fits hs
  obtain ⟨hq, hm, u, hu, rfl⟩ := id h
  obtain ⟨-, -, -, hplaced⟩ := hs
  obtain ⟨hop, -, hout, hbank, hreading⟩ := (Caller.placed_iff_of_some hq).1 (List.forall_mem_cons.1 hplaced).1
  cases hends : m.ends with
  | true => exact Caller.placed_of_none (h.seq_of_ends hends)
  | false =>
    rw [Caller.placed_iff_of_some (h.seq_of_not_ends hends), Seq.past_succ hm]
    have more : (steps q.op).drop q.succ.pos ≠ [] := fun e => by simp [fits.ends_iff.2 e] at hends
    refine ⟨hop, ?_, ?_, ?_, ?_⟩
    · simpa using more
    · rw [State.advance_caller_out, hu.out_length hends, hout, List.count_append]
    · rw [State.advance_caller_bank, hu.bank_length hends]
      intro hb
      split
      next e => rw [hout, fits.bank e]
      next e => exact hbank (by simpa [Ne.symm e] using hb)
    · rw [State.advance_caller_reading, hu.reading_isSome hends]
      intro hd
      by_cases e : m = .decode
      · simp [e]
      · simpa [e] using hreading (by simpa [Ne.symm e] using hd)

/-- The critical section after a step that does not end the operation is that of the steps then done. -/
theorem Advance.inCritical_of_not_ends (hends : m.ends = false) :
    t.caller.inCritical = ((q.past ++ [m]).contains .lock && !(q.past ++ [m]).contains .unlock) := by
  rw [Caller.inCritical_of_some (h.seq_of_not_ends hends), Seq.past_succ h.next]

/-- A step other than `lock()` and `unlock()` leaves the caller in or out of its critical section. -/
theorem Advance.inCritical (hs : Safety.Inv s) (hl : m ≠ .lock) (hu : m ≠ .unlock) :
    t.caller.inCritical = s.caller.inCritical := by
  have fits := h.fits hs
  rw [Caller.inCritical_of_some h.seq]
  cases hends : m.ends with
  | true =>
    rw [Caller.inCritical_of_none (h.seq_of_ends hends), eq_comm]
    simpa using fits.released hends
  | false =>
    rw [h.inCritical_of_not_ends hends]
    simp [Ne.symm hl, Ne.symm hu]

theorem Advance.lockAgrees (hs : Safety.Inv s) : t.lockAgrees := by
  have fits := h.fits hs
  obtain ⟨u, hu, ht⟩ := h.performed
  have ht_lock : t.lock = u.lock := by rw [ht]; rfl
  obtain ⟨hnames, hlock, -, -⟩ := id hs
  by_cases hl : m = .lock
  · subst hl
    obtain ⟨hfree, hheld⟩ := hu.of_lock
    refine lockAgrees_of_lock h.others h.caller_id hlock hfree (ht_lock.trans hheld) ?_
    simpa [h.inCritical_of_not_ends rfl] using fits.lock rfl
  by_cases hul : m = .unlock
  · subst hul
    obtain ⟨hheld, hfree⟩ := hu.of_unlock
    refine lockAgrees_of_unlock h.others hnames hlock hheld (ht_lock.trans hfree) ?_
    simp [h.inCritical_of_not_ends rfl]
  · exact lockAgrees_of_caller h.others h.caller_id hlock (ht_lock.trans (hu.lock_eq fits.notBuild hl hul))
      (h.inCritical hs hl hul)

/-- No step of an operation configures a pin, and a pin that has a level keeps having one. -/
theorem Advance.wired (hs : Safety.Inv s) (hw : s.wired) : t.wired := by
  have fits := h.fits hs
  obtain ⟨-, -, u, hu, rfl⟩ := h
  have modes := congrFun (hu.mode_eq fits.notModeOut fits.notModeIn)
  obtain ⟨⟨hcs, hclk, hsdo, hsdi⟩, hpins⟩ := hw
  refine ⟨⟨(modes .cs).trans hcs, (modes .clk).trans hclk, (modes .sdo).trans hsdo, (modes .sdi).trans hsdi⟩,
    fun p => ?_⟩
  by_cases hp : ∃ l, m = .wr p l
  · obtain ⟨l, rfl⟩ := hp
    exact congrArg Option.isSome hu.pin_of_wr
  · exact (congrArg Option.isSome (hu.pin_of_ne p (not_exists.1 hp))).trans (hpins p)

theorem Advance.busy_of_not_busy (hb : s.caller.busy = false) : t.caller.busy = false := by
  rw [Caller.busy_of_some h.seq] at hb
  cases hends : m.ends with
  | true => exact Caller.busy_of_none (h.seq_of_ends hends)
  | false => exact (Caller.busy_of_some (q := q.succ) (h.seq_of_not_ends hends)).trans hb

/-- `LIFE` moves only where a `CLOSE` finds no other operation in progress. -/
theorem Advance.life (hs : Safety.Inv s) :
    t.life = s.life ∨ m = .close ∧ s.life = .ready ∧ t.life = .closed ∧ s.quiet = true := by
  have fits := h.fits hs
  obtain ⟨-, -, u, hu, rfl⟩ := h
  exact hu.life fits.notBuild

theorem Advance.lifeAgrees (hs : Safety.Inv s) : t.lifeAgrees := by
  obtain ⟨-, -, hlife, -⟩ := id hs
  obtain ⟨-, hwired, hclosed⟩ := s.lifeAgrees_iff.1 hlife
  obtain hsame | ⟨rfl, -, hcl, hquiet⟩ := h.life hs
  · refine lifeAgrees_of_caller h.others hlife hsame (h.wired hs) (absurd · (h.built hs)) fun hcl => ?_
    exact h.busy_of_not_busy (List.forall_mem_cons.1 (hclosed hcl)).1
  · refine t.lifeAgrees_iff.2 ⟨fun e => ?_, fun _ => h.wired hs (hwired (h.built hs)), fun _ => ?_⟩
    · rw [hcl] at e
      cases e
    · refine List.forall_mem_cons.2 ⟨Caller.busy_of_none (h.seq_of_ends rfl), ?_⟩
      simp only [State.quiet, Bool.and_eq_true, List.all_eq_true, Bool.not_eq_true'] at hquiet
      rw [h.others]
      exact hquiet.2

theorem Advance.built_after (hs : Safety.Inv s) : t.life ≠ .unbuilt := by
  obtain hsame | ⟨-, -, hcl, -⟩ := h.life hs
  · rw [hsame]
    exact h.built hs
  · simp [hcl]

theorem Advance.inv (hs : Safety.Inv s) : Safety.Inv t :=
  inv_of_caller h.others h.caller_id hs (h.lockAgrees hs) (h.lifeAgrees hs) (h.placed hs)

end

/-! ### Steps after construction -/

/-- What choosing a caller, taking a word, a refusal, the acceptance of an operation and every step of one keep, a step
after construction keeps. -/
theorem step_keeps_of_built {P : State → Prop} {s t : State} (serves : ∀ u, Serves s u → P s → P u)
    (takes : ∀ u rest, P u → P (taken u rest)) (refuses : ∀ u r, P u → P (u.refuse r))
    (accepts : ∀ u i, u.caller.seq = none → P u → P (u.accept i))
    (advances : ∀ u v q m, Safety.Inv u → Advance q m u v → P u → P v) (hs : Safety.Inv s) (hl : s.life ≠ .unbuilt)
    (h : step s = .next t) (hP : P s) : P t := by
  obtain ⟨-, -, hPt⟩ : Safety.Inv t ∧ t.life ≠ .unbuilt ∧ P t := by
    refine step_keeps (P := fun u => Safety.Inv u ∧ u.life ≠ .unbuilt ∧ P u) ?_ ?_ ?_ ?_ ?_ ?_ h ⟨hs, hl, hP⟩
    · exact fun u hu ⟨hi, hb, hp⟩ => ⟨hu.inv hi, hu.life ▸ hb, serves u hu hp⟩
    · exact fun u rest ⟨hi, hb, hp⟩ => ⟨inv_taken rest hi, hb, takes u rest hp⟩
    · exact fun u r ⟨hi, hb, hp⟩ => ⟨hi, hb, refuses u r hp⟩
    · exact fun u hu ⟨_, hb, _⟩ => absurd hu hb
    · exact fun u i hi hr hq ⟨hinv, hb, hp⟩ => ⟨inv_accept hi hr hq hinv, hb, accepts u i hq hp⟩
    · rintro u v ⟨q, m, hv⟩ ⟨hi, hb, hp⟩
      exact ⟨hv.inv hi, hv.built_after hi, advances u v q m hi hv hp⟩
  exact hPt

/-- Settles O48: no caller has an operation in progress at reset or before construction, and the lock is free. -/
theorem invariantAtReset : Obligations.InvariantAtReset := by
  refine ⟨inv_of_idle (by decide) (by decide) rfl fun _ => ?_, inv_of_idle (by decide) (by decide) rfl ?_⟩
  · exact State.reset.wired_iff.2 ⟨⟨rfl, rfl, rfl, rfl⟩, rfl, rfl, rfl⟩
  · exact fun built => absurd rfl built

/-- Settles O49: every way a step changes the state keeps the invariant. -/
theorem stepKeepsTheInvariant : Obligations.StepKeepsTheInvariant := by
  intro s t hs h
  exact step_keeps (fun u hu => hu.inv) (fun u rest => inv_taken rest) (fun u r hu => hu)
    (fun u => inv_constructed) (fun u i => inv_accept) (fun u v ⟨q, m, hv⟩ => hv.inv) h hs

end Sys2Proof.Machine
end

section
/-! The bus is idle but for a caller inside a frame or a clock pulse (R21, R123, R228): O51, O52. -/

namespace Sys2Proof.Machine

/-! ### Steps that bring a pin back to its idle level -/

/-- Does the step write the pin? -/
def Micro.writes (p : OutPin) (m : Micro) : Bool := m == .wr p .low || m == .wr p .high

theorem Micro.writes_iff (p : OutPin) (m : Micro) : m.writes p = true ↔ ∃ l, m = .wr p l := by
  simp only [Micro.writes, Bool.or_eq_true, beq_iff_eq]
  refine ⟨fun h => h.elim (⟨_, ·⟩) (⟨_, ·⟩), ?_⟩
  rintro ⟨_ | _, rfl⟩
  · exact .inl rfl
  · exact .inr rfl

/-- The next write to the pin among the steps drives it to its idle level. -/
def idles (p : OutPin) (idle : Level) (xs : List Micro) : Bool := xs.find? (Micro.writes p) == some (.wr p idle)

/-- Wherever the steps drive the pin off its idle level, their next write to it drives it back. -/
def Restores (p : OutPin) (idle : Level) : List Micro → Prop
  | [] => True
  | m :: ms => ((∃ l, l ≠ idle ∧ m = .wr p l) → idles p idle ms = true) ∧ Restores p idle ms

theorem idles_append_left {p : OutPin} {idle : Level} {xs : List Micro} (h : idles p idle xs = true)
    (ys : List Micro) : idles p idle (xs ++ ys) = true := by
  simp only [idles, beq_iff_eq] at h ⊢
  rw [List.find?_append, h]
  rfl

theorem idles_cons_of_writes_eq_false {p : OutPin} {idle : Level} {m : Micro} (h : m.writes p = false)
    (ms : List Micro) : idles p idle (m :: ms) = idles p idle ms := by
  simp [idles, h]

namespace Restores

variable {p : OutPin} {idle : Level} {xs ys : List Micro}

theorem append (hx : Restores p idle xs) (hy : Restores p idle ys) : Restores p idle (xs ++ ys) := by
  induction xs with
  | nil => exact hy
  | cons m ms ih => exact ⟨fun hm => idles_append_left (hx.1 hm) ys, ih hx.2⟩

theorem flatten {xss : List (List Micro)} (h : ∀ xs ∈ xss, Restores p idle xs) : Restores p idle xss.flatten := by
  induction xss with
  | nil => trivial
  | cons xs xss ih =>
    rw [List.forall_mem_cons] at h
    exact h.1.append (ih h.2)

theorem of_suffix (h : Restores p idle (xs ++ ys)) : Restores p idle ys := by
  induction xs with
  | nil => exact h
  | cons m ms ih => exact ih h.2

/-- Steps that do not write the pin. -/
theorem of_all (h : xs.all (fun m => !m.writes p) = true) : Restores p idle xs := by
  induction xs with
  | nil => trivial
  | cons m ms ih =>
    rw [List.all_cons, Bool.and_eq_true, Bool.not_eq_true'] at h
    refine ⟨fun ⟨l, _, hm⟩ => ?_, ih h.2⟩
    rw [(m.writes_iff p).2 ⟨l, hm⟩] at h
    cases h.1

/-- A pulse: the pin is written off its idle level, then other steps are performed, then it is written back. -/
theorem pulse (l : Level) (h : xs.all (fun m => !m.writes p) = true) :
    Restores p idle (.wr p l :: (xs ++ [.wr p idle])) := by
  refine ⟨fun _ => ?_, (of_all h).append ⟨fun ⟨k, hk, e⟩ => ?_, trivial⟩⟩
  · have skip : xs.find? (Micro.writes p) = none := by simpa using h
    have back : (Micro.wr p idle).writes p = true := (Micro.writes_iff p _).2 ⟨idle, rfl⟩
    simp [idles, skip, back]
  · cases e; exact absurd rfl hk

end Restores

/-! ### The operations -/

/-- Chip-select goes back high, and the clock low. -/
def Framed (xs : List Micro) : Prop := Restores .cs .high xs ∧ Restores .clk .low xs

theorem Framed.append {xs ys : List Micro} (hx : Framed xs) (hy : Framed ys) : Framed (xs ++ ys) :=
  ⟨hx.1.append hy.1, hx.2.append hy.2⟩

theorem Framed.flatten {xss : List (List Micro)} (h : ∀ xs ∈ xss, Framed xs) : Framed xss.flatten :=
  ⟨.flatten fun xs hx => (h xs hx).1, .flatten fun xs hx => (h xs hx).2⟩

theorem Framed.flatten_replicate {xs : List Micro} (h : Framed xs) (n : Nat) : Framed (List.replicate n xs).flatten :=
  .flatten fun _ hx => List.eq_of_mem_replicate hx ▸ h

/-- A step that writes neither pin. -/
theorem framed_singleton {m : Micro} (hcs : m.writes .cs = false) (hclk : m.writes .clk = false) : Framed [m] :=
  ⟨.of_all (by simp [hcs]), .of_all (by simp [hclk])⟩

theorem framed_sendBit (b : Bool) : Framed (sendBit b) := ⟨.of_all rfl, .pulse (xs := [_]) .high rfl⟩

theorem framed_recvBit : Framed recvBit := ⟨.of_all rfl, .pulse (xs := [_]) .high rfl⟩

theorem framed_sendByte (v : Byte) : Framed (sendByte v) := by
  rw [sendByte, List.flatMap_def]
  refine .flatten fun xs hx => ?_
  obtain ⟨b, -, rfl⟩ := List.mem_map.1 hx
  exact framed_sendBit b

theorem framed_recvByte : Framed recvByte :=
  (framed_singleton (m := .clearAcc) rfl rfl).append (framed_recvBit.flatten_replicate Config.byteBits)

theorem framed_recvBytes (n : Nat) : Framed (recvBytes n) :=
  (framed_recvByte.append (framed_singleton rfl rfl)).flatten_replicate n

theorem sendByte_not_writes_cs (v : Byte) : (sendByte v).all (fun m => !m.writes .cs) = true := rfl

theorem recvBytes_not_writes_cs (n : Nat) : (recvBytes n).all (fun m => !m.writes .cs) = true := by
  have one : (recvByte ++ [Micro.keep]).all (fun m => !m.writes .cs) = true := rfl
  simp only [recvBytes, List.all_flatten, List.all_replicate, one, ite_self]

/-- A frame is a pulse of chip-select. -/
theorem framed_frame {xs : List Micro} (hcs : xs.all (fun m => !m.writes .cs) = true)
    (hclk : Restores .clk .low xs) : Framed ([.wr .cs .low] ++ xs ++ [.wr .cs .high]) :=
  ⟨.pulse .low hcs, ((Restores.of_all rfl).append hclk).append (.of_all rfl)⟩

theorem framed_writeFrameSteps (a v : Byte) : Framed (writeFrameSteps a v) := by
  rw [writeFrameSteps, List.append_assoc [_]]
  refine framed_frame ?_ ((framed_sendByte a).append (framed_sendByte v)).2
  rw [List.all_append, sendByte_not_writes_cs, sendByte_not_writes_cs]
  rfl

theorem framed_readFrameSteps (a : Byte) (n : Nat) : Framed (readFrameSteps a n) := by
  rw [readFrameSteps, List.append_assoc [_]]
  refine framed_frame ?_ ((framed_sendByte a).append (framed_recvBytes n)).2
  rw [List.all_append, sendByte_not_writes_cs, recvBytes_not_writes_cs]
  rfl

theorem framed_acquisition : Framed acquisition := by
  rw [acquisition_eq, acquisitionFrames]
  have frames := ((framed_writeFrameSteps (writeAddress 0x00) Config.configTrigger).append
    (framed_singleton (m := .delay) rfl rfl)).append (framed_readFrameSteps (readAddress 0x00) Config.nregs)
  exact (framed_singleton (m := .lock) rfl rfl).append (frames.append ⟨.of_all rfl, .of_all rfl⟩)

/-- Every operation brings chip-select and the clock back to their idle levels. -/
theorem framed_steps (i : Instr) : Framed (steps i) := by
  cases i with
  | init => exact ⟨by simp [steps, stepsInit, Restores], by simp [steps, stepsInit, Restores]⟩
  | sendbyte v => exact (framed_sendByte v).append (framed_singleton rfl rfl)
  | recvbyte => exact framed_recvByte.append (framed_singleton rfl rfl)
  | writereg a v => exact (framed_writeFrameSteps _ v).append (framed_singleton rfl rfl)
  | readregs a n => exact (framed_readFrameSteps _ _).append (framed_singleton rfl rfl)
  | writeFrame x v => exact (framed_writeFrameSteps _ v).append (framed_singleton rfl rfl)
  | readFrame a n => exact (framed_readFrameSteps a _).append (framed_singleton rfl rfl)
  | acquire | tempExact | tempPoly3 | tempPoly4 | tempPoly5 =>
    exact framed_acquisition.append (framed_singleton rfl rfl)
  | close => exact framed_singleton rfl rfl

/-! ### The bus -/

/-- The pin is at its idle level, or the next write to it of some caller's operation brings it there. -/
def State.rests (s : State) (p : OutPin) (idle : Level) : Prop :=
  s.pin p = some idle ∨ ∃ c ∈ s.callers, idles p idle c.rest = true

theorem busIdle_iff (s : State) : Safety.BusIdle s ↔ s.rests .cs .high ∧ s.rests .clk .low := Iff.rfl

theorem Caller.rest_of_none {c : Caller} (h : c.seq = none) : c.rest = [] := by
  simp [Caller.rest, h]

theorem Caller.rest_of_some {c : Caller} {q : Seq} (h : c.seq = some q) : c.rest = (steps q.op).drop q.pos := by
  simp [Caller.rest, h]

theorem State.rests.pin_of_idle {s : State} {p : OutPin} {idle : Level} (h : s.rests p idle)
    (hq : ∀ c ∈ s.callers, c.seq = none) : s.pin p = some idle := by
  refine h.resolve_right fun ⟨c, hc, hi⟩ => ?_
  rw [Caller.rest_of_none (hq c hc)] at hi
  cases hi

theorem rests_of_caller {s t : State} {p : OutPin} {idle : Level} (ho : t.others = s.others) (hp : t.pin p = s.pin p)
    (hc : idles p idle s.caller.rest = true → idles p idle t.caller.rest = true) (hs : s.rests p idle) :
    t.rests p idle := by
  simp only [State.rests, State.callers, List.exists_mem_cons_iff, ho, hp] at hs ⊢
  exact hs.imp_right (Or.imp_left hc)

section

variable {q : Seq} {m : Micro} {s t : State} (h : Advance q m s t)
include h

/-- The step performed is the first of those the operation still had. -/
theorem Advance.rest_eq (hs : Safety.Inv s) : s.caller.rest = m :: t.caller.rest := by
  have fits := h.fits hs
  obtain ⟨hlt, rfl⟩ := List.getElem?_eq_some_iff.1 h.next
  rw [Caller.rest_of_some h.seq, List.drop_eq_getElem_cons hlt]
  congr 1
  cases hends : (steps q.op)[q.pos].ends with
  | true => rw [Caller.rest_of_none (h.seq_of_ends hends), ← fits.ends_iff.1 hends]; rfl
  | false => rw [Caller.rest_of_some (h.seq_of_not_ends hends)]; rfl

theorem Advance.rests {p : OutPin} {idle : Level} (hprog : Restores p idle (steps q.op)) (hs : Safety.Inv s)
    (hr : s.rests p idle) : t.rests p idle := by
  have rest_eq := h.rest_eq hs
  obtain ⟨u, hu, ht⟩ := h.performed
  have ht_pin : t.pin p = u.pin p := by rw [ht]; cases p <;> rfl
  by_cases hp : ∃ l, m = .wr p l
  · obtain ⟨l, rfl⟩ := hp
    by_cases hl : l = idle
    · exact .inl (by rw [ht_pin, hu.pin_of_wr, hl])
    · have here : Restores p idle s.caller.rest := by
        rw [Caller.rest_of_some h.seq]
        exact Restores.of_suffix (xs := (steps q.op).take q.pos) (by rwa [List.take_append_drop])
      rw [rest_eq] at here
      exact .inr ⟨t.caller, List.mem_cons_self .., here.1 ⟨l, hl, rfl⟩⟩
  · have hw : m.writes p = false := by rwa [Bool.eq_false_iff, Ne, m.writes_iff]
    refine rests_of_caller h.others (ht_pin.trans (hu.pin_of_ne p (not_exists.1 hp))) ?_ hr
    rw [rest_eq, idles_cons_of_writes_eq_false hw]
    exact id

end

theorem Advance.busIdle {q : Seq} {m : Micro} {s t : State} (h : Advance q m s t) (hs : Safety.Inv s)
    (hb : Safety.BusIdle s) : Safety.BusIdle t :=
  ⟨h.rests (framed_steps q.op).1 hs hb.1, h.rests (framed_steps q.op).2 hs hb.2⟩

theorem busIdle_of_rests {s t : State} (h : ∀ p idle, s.rests p idle → t.rests p idle) (hs : Safety.BusIdle s) :
    Safety.BusIdle t :=
  ⟨h .cs .high hs.1, h .clk .low hs.2⟩

theorem Serves.busIdle {s u : State} (h : Serves s u) : Safety.BusIdle s → Safety.BusIdle u := by
  refine busIdle_of_rests fun p idle => ?_
  simp only [State.rests, h.pin, h.perm.mem_iff, imp_self]

theorem busIdle_taken {s : State} (rest : List PortWord) : Safety.BusIdle s → Safety.BusIdle (taken s rest) :=
  busIdle_of_rests fun p _ => rests_of_caller (s := s) rfl (by cases p <;> rfl) id

theorem busIdle_accept {s : State} {i : Instr} (hq : s.caller.seq = none) :
    Safety.BusIdle s → Safety.BusIdle (s.accept i) := by
  refine busIdle_of_rests fun p idle => rests_of_caller (s := s) rfl (by cases p <;> rfl) fun h => ?_
  rw [Caller.rest_of_none hq] at h
  cases h

/-- Settles O51: the pins have their idle levels. -/
theorem busIdleAtReset : Obligations.BusIdleAtReset := ⟨.inl rfl, .inl rfl⟩

/-- Settles O52: every operation drives chip-select back high and the clock back low, so a pin off its idle level is
owed its next write by the caller that drove it. -/
theorem stepKeepsTheBusIdle : Obligations.StepKeepsTheBusIdle := by
  refine ⟨fun s t hs hl hb h => ?_, fun s hb hq => ?_⟩
  · exact step_keeps_of_built (fun u hu => hu.busIdle) (fun u rest => busIdle_taken rest) (fun u r hu => hu)
      (fun u i => busIdle_accept) (fun u v q m hu hv => hv.busIdle hu) hs hl h hb
  · obtain ⟨hcs, hclk⟩ := (busIdle_iff s).1 hb
    exact ⟨hcs.pin_of_idle hq, hclk.pin_of_idle hq⟩

end Sys2Proof.Machine
end

section
/-! The counters, the pin modes and `LIFE` over a step (R22, R26, R29, R39, R184): O55, O56. With them the state after reset (R40): O12. -/

namespace Sys2Proof.Machine

theorem Advance.counters {q : Seq} {m : Micro} {s t : State} (h : Advance q m s t) (hs : Safety.Inv s) :
    s.good ≤ t.good ∧ s.bad ≤ t.bad := by
  have fits := h.fits hs
  obtain ⟨-, -, u, hu, rfl⟩ := h
  exact hu.counters fits.notBuild

theorem Advance.mode {q : Seq} {m : Micro} {s t : State} (h : Advance q m s t) (hs : Safety.Inv s) :
    t.mode = s.mode := by
  have fits := h.fits hs
  obtain ⟨-, -, u, hu, rfl⟩ := h
  exact hu.mode_eq fits.notModeOut fits.notModeIn

/-- Settles O55: only construction sets a counter back. -/
theorem countersNeverDecrease : Obligations.CountersNeverDecrease := by
  intro s t hs hl h
  refine step_keeps_of_built (P := fun u => s.good ≤ u.good ∧ s.bad ≤ u.bad) ?_ ?_ ?_ ?_ ?_ hs hl h ⟨le_rfl, le_rfl⟩
  · exact fun u hu _ => ⟨hu.good.ge, hu.bad.ge⟩
  · exact fun u rest hu => hu
  · exact fun u r hu => hu
  · exact fun u i _ hu => hu
  · intro u v q m hi hv ⟨hgood, hbad⟩
    obtain ⟨hgood', hbad'⟩ := hv.counters hi
    exact ⟨hgood.trans hgood', hbad.trans hbad'⟩

/-- Only construction configures a pin. -/
theorem step_mode_of_built {s t : State} (hs : Safety.Inv s) (hl : s.life ≠ .unbuilt) (h : step s = .next t) :
    t.mode = s.mode := by
  refine step_keeps_of_built (P := fun u => u.mode = s.mode) ?_ ?_ ?_ ?_ ?_ hs hl h rfl
  · exact fun u hu _ => hu.mode
  · exact fun u rest hu => hu
  · exact fun u r hu => hu
  · exact fun u i _ hu => hu
  · exact fun u v q m hi hv hu => (hv.mode hi).trans hu

/-- After construction `LIFE` stays as it is or becomes closed. -/
theorem step_life_of_built {s t : State} (hs : Safety.Inv s) (hl : s.life ≠ .unbuilt) (h : step s = .next t) :
    t.life = s.life ∨ s.life = .ready ∧ t.life = .closed := by
  refine step_keeps_of_built (P := fun u => u.life = s.life ∨ s.life = .ready ∧ u.life = .closed)
    ?_ ?_ ?_ ?_ ?_ hs hl h (.inl rfl)
  · exact fun u hu _ => .inl hu.life
  · exact fun u rest hu => hu
  · exact fun u r hu => hu
  · exact fun u i _ hu => hu
  · intro u v q m hi hv hu
    obtain hsame | ⟨-, hready, hclosed, -⟩ := hv.life hi
    · rwa [hsame]
    · exact .inr ⟨hu.elim (fun e => e ▸ hready) And.left, hclosed⟩

/-- Before construction a step does nothing, refuses an operation, or constructs the block. -/
theorem step_life_of_unbuilt {s t : State} (hs : Safety.Inv s) (hl : s.life = .unbuilt) (h : step s = .next t) :
    t.life = .unbuilt ∨ t.life = .ready := by
  obtain ⟨u, hu, shape⟩ := step_shape h
  have hul : u.life = .unbuilt := hu.life.trans hl
  cases shape with
  | idle ht => exact .inl (ht ▸ hul)
  | refused rest r ht => exact .inl (ht ▸ hul)
  | constructed rest _ ht => exact .inr (ht ▸ rfl)
  | begun rest i _ hready => rw [hul] at hready; cases hready
  | advanced ha =>
    obtain ⟨q, m, hv⟩ := ha
    exact absurd hul (hv.built (hu.inv hs))

/-- Settles O56: after construction only `LIFE` moves, from ready to closed. -/
theorem modesAndLifeMoveOnce : Obligations.ModesAndLifeMoveOnce := by
  intro s t hs h
  constructor
  · intro hl
    have modes := congrFun (step_mode_of_built hs hl h)
    exact ⟨modes .cs, modes .clk, modes .sdo, modes .sdi⟩
  · by_cases hl : s.life = .unbuilt
    · rw [hl]
      exact (step_life_of_unbuilt hs hl h).imp id fun ht => .inl ⟨rfl, ht⟩
    · exact (step_life_of_built hs hl h).imp id .inr

/-- Settles O12: the state after reset is a literal. -/
theorem resetLeavesTheSecondColumn : Obligations.ResetLeavesTheSecondColumn := by
  unfold Obligations.ResetLeavesTheSecondColumn
  decide

end Sys2Proof.Machine
end

section
/-! An operation in one step is its steps one by one (R27, decision D16): O10. -/

namespace Sys2Proof.Machine

theorem State.choose_eq_none_of_alone {s : State} (ha : s.alone = true) (hm : s.canMove = false) : s.choose = none := by
  have waits : ∀ k ∈ List.range s.callers.length, ¬(s.focus k).canMove = true := by
    rintro (_ | k) hk
    · simp [s.focus_zero, hm]
    · have hk' : k < s.others.length := by simpa [State.callers] using hk
      have quiet : (s.focus (k + 1)).caller.quiescent = true := by
        rw [State.focus_succ_caller hk']
        exact List.all_eq_true.1 ha _ (List.getElem_mem hk')
      simp [State.canMove_of_quiescent quiet]
  rw [State.choose, State.candidates, List.filter_eq_nil_iff.2 waits]

/-- A caller that has an operation in progress waits at its next step, or can move. -/
theorem State.resume_of_not_canMove {s : State} {q : Seq} (hq : s.caller.seq = some q) (hm : s.canMove = false) :
    s.resume q = .next s := by
  unfold State.canMove at hm
  rw [hq] at hm
  cases hnext : q.next with
  | none => simp [hnext] at hm
  | some m =>
    simp only [hnext] at hm
    cases hp : s.perform m <;> simp_all [Effect.isWait, State.resume]

theorem performAll_of_done {s t : State} {m : Micro} (h : s.perform m = .done t) (ms : List Micro) :
    s.performAll (m :: ms) = t.advance.performAll ms := by
  simp only [State.performAll, h]

theorem performAll_of_wait {s : State} {m : Micro} (h : s.perform m = .wait) (ms : List Micro) :
    s.performAll (m :: ms) = .next s := by
  simp only [State.performAll, h]

theorem performAll_of_fault {s : State} {m : Micro} {f : Fault} (h : s.perform m = .fault f) (ms : List Micro) :
    s.performAll (m :: ms) = .fault f := by
  simp only [State.performAll, h]

/-- A lone caller goes on with its operation. -/
theorem step_eq_resume_of_alone {s : State} {q : Seq} (ha : s.alone = true) (hq : s.caller.seq = some q) :
    step s = s.resume q := by
  cases hm : s.canMove with
  | true => rw [step_of_choose (State.choose_of_alone ha hm), State.serve, hq]
  | false => simp only [step, State.stepWith, State.choose_eq_none_of_alone ha hm, State.resume_of_not_canMove hq hm]

theorem run_succ_of_next {s t : State} (h : step s = .next t) (n : Nat) :
    Host.Core.run Sys2Proof.core (n + 1) s = Host.Core.run Sys2Proof.core n t := by
  have core_step : Sys2Proof.core.step s = .next t := h
  simp only [Host.Core.run, core_step]

theorem run_succ_of_fault {s : State} {f : Fault} (h : step s = .fault f) (n : Nat) :
    Host.Core.run Sys2Proof.core (n + 1) s = .fault f := by
  have core_step : Sys2Proof.core.step s = .fault f := h
  simp only [Host.Core.run, core_step]

/-- A caller that waits alone waits for ever. -/
theorem run_of_step_eq_self {s : State} (h : step s = .next s) (n : Nat) :
    Host.Core.run Sys2Proof.core n s = .next s := by
  induction n with
  | zero => rfl
  | succ n ih => rw [run_succ_of_next h, ih]

/-- As many steps of the machine as a lone caller's operation still has perform them one after another. -/
theorem run_eq_performAll {i : Instr} (hi : i ≠ .init) {xs : List Micro} :
    ∀ {pre : List Micro} {s : State}, steps i = pre ++ xs → s.alone = true →
      (xs ≠ [] → s.caller.seq = some ⟨i, pre.length⟩) →
        Host.Core.run Sys2Proof.core xs.length s = s.performAll xs := by
  induction xs with
  | nil => intros; rfl
  | cons m ms ih =>
    intro pre s hs ha hq
    have next : Seq.next ⟨i, pre.length⟩ = some m := by simp [Seq.next, hs]
    have one : step s = s.resume ⟨i, pre.length⟩ := step_eq_resume_of_alone ha (hq (by simp))
    cases hp : s.perform m with
    | done u =>
      simp only [State.resume, next, hp] at one
      have adv : Advance ⟨i, pre.length⟩ m s u.advance := ⟨hq (by simp), next, u, performed_of_done hp, rfl⟩
      have goes_on : ms ≠ [] → u.advance.caller.seq = some ⟨i, (pre ++ [m]).length⟩ := by
        intro hms
        have more : m.ends = false := by rwa [Bool.eq_false_iff, Ne, (steps_fits hi hs).ends_iff]
        rw [adv.seq_of_not_ends more, List.length_append]
        rfl
      have still_alone : u.advance.alone = true := by rwa [State.alone, adv.others]
      rw [performAll_of_done hp]
      exact (run_succ_of_next one ms.length).trans (ih (by simpa using hs) still_alone goes_on)
    | wait =>
      simp only [State.resume, next, hp] at one
      rw [performAll_of_wait hp]
      exact run_of_step_eq_self one (m :: ms).length
    | fault f =>
      simp only [State.resume, next, hp] at one
      rw [performAll_of_fault hp]
      exact run_succ_of_fault one ms.length

/-- Settles O10: the lone caller performs the operation's steps in their order, and nothing comes between them.
(A step at which it waits is one the machine does not leave either, so the premise on `LOCK` is not needed.) -/
theorem oneStepIsManyPinSteps : Obligations.OneStepIsManyPinSteps := by
  intro s i ⟨hl, _, hq⟩ ha _ hi
  have accepted : waitingState s i = s.accept i := rfl
  rw [accepted, exec_eq_operate, operate_ready hl hq i hi]
  exact run_eq_performAll hi (pre := []) rfl ha fun _ => rfl

end Sys2Proof.Machine
end

section
/-! What the steps of an operation put on the trace (R14, R110 to R114): one token for each pin event (R121 to R151). -/

namespace Sys2Proof.Machine

/-- What a step puts on the trace where the level on data-in is `l`. -/
def Micro.tokens (l : Level) : Micro → List Token
  | .modeOut p => [.modeOut p]
  | .modeIn p => [.modeIn p]
  | .wr p k => [.wr p k]
  | .sample => [.rd l]
  | .delay => [.delay]
  | _ => []

theorem Micro.length_tokens (l : Level) (m : Micro) : (m.tokens l).length = if m.isPinEvent then 1 else 0 := by
  cases m <;> rfl

theorem Micro.tokens_of_silent {m : Micro} (h : m.isPinEvent = false) (l : Level) : m.tokens l = [] := by
  rw [← List.length_eq_zero_iff, m.length_tokens, h]
  rfl

/-- Performing a step adds its token to the trace, in the caller's name, and nothing else. -/
theorem Performed.trace {s t : State} {m : Micro} (h : Performed s m t) :
    t.trace = s.trace ++ s.events (m.tokens s.sdi) := by
  cases h <;> simp [State.events, Micro.tokens]

theorem Advance.trace {q : Seq} {m : Micro} {s t : State} (h : Advance q m s t) :
    t.trace = s.trace ++ s.events (m.tokens s.sdi) := by
  obtain ⟨-, -, u, hu, rfl⟩ := h
  exact hu.trace

theorem State.map_token_events (s : State) (ts : List Token) : (s.events ts).map Event.token = ts := by
  simp [State.events, Function.comp_def]

theorem Advance.tokens {q : Seq} {m : Micro} {s t : State} (h : Advance q m s t) :
    t.tokens = s.tokens ++ m.tokens s.sdi := by
  rw [State.tokens, State.tokens, h.trace, List.map_append, State.map_token_events]

/-! ### The tokens of several steps -/

/-- The steps, performed in their order, can put these tokens on the trace: each sample may find either level. -/
def Puts : List Micro → List Token → Prop
  | [], ts => ts = []
  | m :: ms, ts => ∃ l rest, ts = m.tokens l ++ rest ∧ Puts ms rest

theorem puts_append {xs ys : List Micro} {ts : List Token} :
    Puts (xs ++ ys) ts ↔ ∃ a b, ts = a ++ b ∧ Puts xs a ∧ Puts ys b := by
  induction xs generalizing ts with
  | nil => simp [Puts]
  | cons m ms ih =>
    simp only [List.cons_append, Puts, ih]
    constructor
    · rintro ⟨l, _, rfl, a, b, rfl, ha, hb⟩
      exact ⟨m.tokens l ++ a, b, (List.append_assoc ..).symm, ⟨l, a, rfl, ha⟩, hb⟩
    · rintro ⟨_, b, rfl, ⟨l, a, rfl, ha⟩, hb⟩
      exact ⟨l, a ++ b, List.append_assoc .., a, b, rfl, ha, hb⟩

theorem puts_singleton (m : Micro) (l : Level) : Puts [m] (m.tokens l) :=
  ⟨l, [], (List.append_nil _).symm, rfl⟩

theorem Puts.snoc {xs : List Micro} {ts : List Token} (h : Puts xs ts) (m : Micro) (l : Level) :
    Puts (xs ++ [m]) (ts ++ m.tokens l) :=
  puts_append.2 ⟨ts, _, rfl, h, puts_singleton m l⟩

theorem exists_puts (xs : List Micro) : ∃ ts, Puts xs ts := by
  induction xs with
  | nil => exact ⟨[], rfl⟩
  | cons m ms ih =>
    obtain ⟨ts, h⟩ := ih
    exact ⟨m.tokens .low ++ ts, .low, ts, rfl, h⟩

theorem Puts.length {xs : List Micro} {ts : List Token} (h : Puts xs ts) : ts.length = xs.countP Micro.isPinEvent := by
  induction xs generalizing ts with
  | nil => rw [h]; rfl
  | cons m ms ih =>
    obtain ⟨l, rest, rfl, hr⟩ := h
    rw [List.length_append, ih hr, m.length_tokens, List.countP_cons, Nat.add_comm]

/-- Steps that are no pin event put nothing on the trace. -/
theorem puts_of_silent {xs : List Micro} (h : xs.all (fun m => !m.isPinEvent) = true) {ts : List Token} :
    Puts xs ts ↔ ts = [] := by
  induction xs with
  | nil => rfl
  | cons m ms ih =>
    rw [List.all_cons, Bool.and_eq_true, Bool.not_eq_true'] at h
    simp [Puts, Micro.tokens_of_silent h.1, ih h.2]

/-- Steps that sample nothing put the same tokens on the trace whatever the environment answers. -/
theorem puts_of_not_sample {xs : List Micro} (h : xs.all (fun m => m != .sample) = true) {ts : List Token} :
    Puts xs ts ↔ ts = xs.flatMap (Micro.tokens .low) := by
  induction xs generalizing ts with
  | nil => rfl
  | cons m ms ih =>
    rw [List.all_cons, Bool.and_eq_true, bne_iff_ne] at h
    have fixed : ∀ l, m.tokens l = m.tokens .low := by
      intro l
      cases m with
      | sample => exact absurd rfl h.1
      | _ => rfl
    simp [Puts, fixed, ih h.2]

/-- The first steps put the first tokens on the trace. -/
theorem Puts.take {xs ys : List Micro} {ts : List Token} (h : Puts ys ts) (hp : xs <+: ys) :
    Puts xs (ts.take (xs.countP Micro.isPinEvent)) := by
  obtain ⟨zs, rfl⟩ := hp
  obtain ⟨a, b, rfl, ha, -⟩ := puts_append.1 h
  rwa [← ha.length, List.take_left]

/-- What the first steps put on the trace can be continued. -/
theorem Puts.extend {xs ys : List Micro} {ts : List Token} (h : Puts xs ts) (hp : xs <+: ys) :
    ∃ us, Puts ys us ∧ ts = us.take (xs.countP Micro.isPinEvent) := by
  obtain ⟨zs, rfl⟩ := hp
  obtain ⟨b, hb⟩ := exists_puts zs
  exact ⟨ts ++ b, puts_append.2 ⟨ts, b, rfl, h, hb⟩, by rw [← h.length, List.take_left]⟩

/-! ### Receiving -/

/-- The steps receive `n` bits: their trace is that of `n` samples, of any levels (R85, R122). -/
def Receives (n : Nat) (xs : List Micro) : Prop :=
  ∀ ts, Puts xs ts ↔ ∃ ls : List Level, ls.length = n ∧ ts = recvTokens ls

theorem recvTokens_append (ls ks : List Level) : recvTokens (ls ++ ks) = recvTokens ls ++ recvTokens ks :=
  List.flatMap_append

theorem receives_of_silent {xs : List Micro} (h : xs.all (fun m => !m.isPinEvent) = true) : Receives 0 xs := by
  intro ts
  simp [puts_of_silent h, recvTokens]

theorem Receives.append {j k : Nat} {xs ys : List Micro} (hx : Receives j xs) (hy : Receives k ys) :
    Receives (j + k) (xs ++ ys) := by
  intro ts
  rw [puts_append]
  constructor
  · rintro ⟨a, b, rfl, ha, hb⟩
    obtain ⟨ls, rfl, rfl⟩ := (hx a).1 ha
    obtain ⟨ks, rfl, rfl⟩ := (hy b).1 hb
    exact ⟨ls ++ ks, List.length_append, (recvTokens_append ls ks).symm⟩
  · rintro ⟨ls, hl, rfl⟩
    refine ⟨recvTokens (ls.take j), recvTokens (ls.drop j), ?_, (hx _).2 ⟨_, ?_, rfl⟩, (hy _).2 ⟨_, ?_, rfl⟩⟩
    · rw [← recvTokens_append, List.take_append_drop]
    · rw [List.length_take, hl, Nat.min_eq_left (Nat.le_add_right j k)]
    · rw [List.length_drop, hl, Nat.add_sub_cancel_left]

theorem Receives.replicate {k : Nat} {xs : List Micro} (h : Receives k xs) (n : Nat) :
    Receives (n * k) (List.replicate n xs).flatten := by
  induction n with
  | zero => simpa using receives_of_silent (xs := []) rfl
  | succ n ih =>
    rw [List.replicate_succ, List.flatten_cons, Nat.succ_mul, Nat.add_comm]
    exact h.append ih

theorem receives_recvBit : Receives 1 recvBit := by
  intro ts
  simp [recvBit, Puts, Micro.tokens, recvTokens, List.length_eq_one_iff]

theorem receives_recvByte : Receives 8 recvByte :=
  (receives_of_silent (xs := [.clearAcc]) rfl).append (receives_recvBit.replicate Config.byteBits)

theorem receives_recvBytes (n : Nat) : Receives (n * 8) (recvBytes n) :=
  (receives_recvByte.append (receives_of_silent (xs := [.keep]) rfl)).replicate n

/-! ### Frames -/

/-- The frames of an acquisition put the trace of R151 on the pins, with any 64 levels sampled. -/
theorem puts_acquisitionFrames {ts : List Token} :
    Puts acquisitionFrames ts ↔ ∃ ls : List Level, ls.length = 64 ∧ ts = acquisitionTokens ls := by
  have sends {us : List Token} : Puts (writeFrameSteps (writeAddress 0x00) Config.configTrigger ++ [.delay] ++
      [.wr .cs .low] ++ sendByte (readAddress 0x00)) us ↔
      us = writeFrameTokens 0x80 0xB2 ++ [.delay] ++ [.wr .cs .low] ++ sendTokens 0x00 := puts_of_not_sample (by rfl)
  have ends {us : List Token} : Puts [.wr .cs .high] us ↔ us = [.wr .cs .high] := puts_of_not_sample (by rfl)
  have split : acquisitionFrames = writeFrameSteps (writeAddress 0x00) Config.configTrigger ++ [.delay] ++
      [.wr .cs .low] ++ sendByte (readAddress 0x00) ++ recvBytes Config.nregs ++ [.wr .cs .high] := by
    simp [acquisitionFrames, readFrameSteps]
  simp only [split, puts_append, sends, ends, receives_recvBytes Config.nregs _]
  constructor
  · rintro ⟨_, _, rfl, ⟨_, _, rfl, rfl, ls, hl, rfl⟩, rfl⟩
    exact ⟨ls, hl, by simp [acquisitionTokens, readFrameTokens]⟩
  · rintro ⟨ls, hl, rfl⟩
    exact ⟨_, _, by simp [acquisitionTokens, readFrameTokens], ⟨_, _, rfl, rfl, ls, hl, rfl⟩, rfl⟩

end Sys2Proof.Machine
end

section
/-! Acquisitions never interleave (R61, R68): O53, O54. The holder of `LOCK` is inside its acquisition's frames, and no
one else puts an event on the trace. -/

namespace Sys2Proof.Machine

/-! ### Where an operation that serialises itself puts an event on the trace -/

/-- The steps of an acquisition from its `lock()` on, as far as it holds the lock (R140 to R144). -/
def heldSteps : List Micro := .lock :: (acquisitionFrames ++ [.bank])

theorem steps_of_acquires {i : Instr} (h : acquires i = true) :
    ∃ r, r.ends = true ∧ steps i = heldSteps ++ [.unlock, .decode, .count, r] := by
  have cut (r : Micro) : acquisition ++ [r] = heldSteps ++ [.unlock, .decode, .count, r] := by
    simp [acquisition_eq, heldSteps]
  cases i with
  | acquire => exact ⟨.returnReading, rfl, cut _⟩
  | tempExact => exact ⟨.returnTemperature .exact, rfl, cut _⟩
  | tempPoly3 => exact ⟨.returnTemperature .poly3, rfl, cut _⟩
  | tempPoly4 => exact ⟨.returnTemperature .poly4, rfl, cut _⟩
  | tempPoly5 => exact ⟨.returnTemperature .poly5, rfl, cut _⟩
  | _ => cases h

theorem serialised_iff (i : Instr) : serialised i = true ↔ acquires i = true ∨ i = .close := by
  simp [serialised]

theorem ne_init_of_serialised {i : Instr} (h : serialised i = true) : i ≠ .init := by
  rintro rfl
  cases h

theorem puts_heldSteps {ts : List Token} :
    Puts heldSteps ts ↔ ∃ ls : List Level, ls.length = 64 ∧ ts = acquisitionTokens ls := by
  have lock {us : List Token} : Puts [.lock] us ↔ us = [] := puts_of_silent rfl
  have bank {us : List Token} : Puts [.bank] us ↔ us = [] := puts_of_silent rfl
  rw [← puts_acquisitionFrames, heldSteps, ← List.singleton_append]
  simp only [puts_append, lock, bank, ↓existsAndEq, and_true, true_and, List.nil_append, List.append_nil]

theorem of_mem_heldSteps {m : Micro} (h : m ∈ heldSteps) : m.ends = false ∧ m ≠ .unlock := by
  simp only [heldSteps, List.mem_cons, List.mem_append, List.not_mem_nil, or_false] at h
  obtain rfl | hf | rfl := h
  · exact ⟨rfl, nofun⟩
  · have moves := List.all_eq_true.1 acquisitionFrames_transfers m hf
    exact ⟨Micro.ends_of_transfers moves, by rintro rfl; cases moves⟩
  · exact ⟨rfl, nofun⟩

theorem silent_of_ends {m : Micro} (h : m.ends = true) : m.isPinEvent = false := by
  cases m <;> trivial

/-- Where a step stands in an operation that serialises itself, the steps `pre` done before it. -/
inductive SerialPlace (pre : List Micro) (m : Micro) : Prop where
  /-- The `lock()`, with nothing done yet. -/
  | lock (hpre : pre = []) (hm : m = .lock)
  /-- A step while the lock is held. -/
  | held (hpre : pre ≠ []) (h : pre ++ [m] <+: heldSteps)
  /-- The `unlock()`. -/
  | unlock (hpre : pre = heldSteps) (hm : m = .unlock)
  /-- A step without the lock, which is no pin event. -/
  | outside (hpre : .lock ∈ pre → .unlock ∈ pre) (hm : m.isPinEvent = false) (hl : m ≠ .lock) (hu : m ≠ .unlock)

theorem serialPlace_of_acquires {pre post : List Micro} {m r : Micro} (hr : r.ends = true)
    (h : heldSteps ++ [.unlock, .decode, .count, r] = pre ++ m :: post) : SerialPlace pre m := by
  rcases List.append_eq_append_iff.1 h with ⟨l, rfl, hl⟩ | ⟨_ | ⟨x, l⟩, hpre, hl⟩
  · rcases l with _ | ⟨x, l⟩
    · exact .unlock (List.append_nil _) (List.cons.inj hl).1.symm
    · obtain ⟨rfl, htail⟩ := List.cons.inj hl
      have later : m ∈ [.decode, .count, r] := by simp [htail]
      simp only [List.mem_cons, List.not_mem_nil, or_false] at later
      obtain rfl | rfl | rfl := later
      · exact .outside (by simp) rfl nofun nofun
      · exact .outside (by simp) rfl nofun nofun
      · exact .outside (by simp) (silent_of_ends hr) (by rintro rfl; cases hr) (by rintro rfl; cases hr)
  · exact .unlock (by simpa using hpre.symm) (List.cons.inj hl).1
  · obtain ⟨rfl, -⟩ := List.cons.inj hl
    rcases pre with _ | ⟨a, pre⟩
    · exact .lock rfl (List.cons.inj hpre).1.symm
    · exact .held nofun ⟨l, by simp [hpre]⟩

theorem serialPlace {i : Instr} {pre post : List Micro} {m : Micro} (hi : serialised i = true)
    (h : steps i = pre ++ m :: post) : SerialPlace pre m := by
  obtain ha | rfl := (serialised_iff i).1 hi
  · obtain ⟨r, hr, hs⟩ := steps_of_acquires ha
    exact serialPlace_of_acquires hr (hs.symm.trans h)
  · obtain ⟨rfl, rfl, -⟩ : pre = [] ∧ m = .close ∧ post = [] := by
      simpa [steps, stepsClose, List.cons_eq_append_iff] using h
    exact .outside nofun rfl nofun nofun

/-! ### The holder of the lock -/

theorem inCritical_of_heldSteps {c : Caller} {q : Seq} (hq : c.seq = some q) (hne : q.past ≠ [])
    (hp : q.past <+: heldSteps) : c.inCritical = true := by
  obtain ⟨a, pre, hpast⟩ := List.exists_cons_of_ne_nil hne
  have starts : a = .lock := (List.cons_prefix_cons.1 (hpast ▸ hp)).1
  have locked : .lock ∈ q.past := by simp [hpast, starts]
  have not_unlocked : .unlock ∉ q.past := fun h => (of_mem_heldSteps (hp.subset h)).2 rfl
  rw [Caller.inCritical_of_some hq]
  simp [locked, not_unlocked]

theorem eq_caller_of_id {s : State} (hs : s.namesDistinct) {c : Caller} (hc : c ∈ s.callers)
    (h : c.id = s.caller.id) : c = s.caller :=
  List.inj_on_of_nodup_map hs hc (List.mem_cons_self ..) h

theorem lock_eq_held_iff {s : State} (hs : Safety.Inv s) :
    s.lock = .held s.caller.id ↔ s.caller.inCritical = true := by
  obtain ⟨hnames, hlock, -, -⟩ := hs
  rw [s.lockAgrees_iff.1 hlock]
  constructor
  · rintro ⟨c, hc, hid, hcrit⟩
    rwa [← eq_caller_of_id hnames hc hid]
  · exact fun hcrit => ⟨s.caller, List.mem_cons_self .., rfl, hcrit⟩

/-! ### The chain of acquisitions -/

/-- Since the trace was `before`, it has grown by whole acquisitions and then by `part`. -/
def Chain (before : List Token) (s : State) (part : List Token) : Prop :=
  ∃ whole : List (List Level), (∀ ls ∈ whole, ls.length = 64) ∧
    s.tokens = before ++ (whole.map acquisitionTokens).flatten ++ part

theorem Chain.of_tokens {before part ts : List Token} {s t : State} (h : Chain before s part)
    (ht : t.tokens = s.tokens ++ ts) : Chain before t (part ++ ts) := by
  obtain ⟨whole, hw, hs⟩ := h
  exact ⟨whole, hw, by rw [ht, hs, List.append_assoc]⟩

/-- A part that is a whole acquisition is one more link. -/
theorem Chain.whole {before : List Token} {s : State} {ls : List Level} (hl : ls.length = 64)
    (h : Chain before s (acquisitionTokens ls)) : Chain before s [] := by
  obtain ⟨whole, hw, hs⟩ := h
  refine ⟨whole ++ [ls], List.forall_mem_append.2 ⟨hw, by simpa using hl⟩, ?_⟩
  simpa using hs

theorem serial_iff_of_free {before : List Token} {s : State} (hl : s.lock = .free) :
    Safety.Serial before s ↔ Chain before s [] := by
  simp [Safety.Serial, Chain, hl]

/-- While the served caller holds the lock, the part is what the steps it has done put on the trace. -/
theorem serial_iff_of_held {before : List Token} {s : State} {q : Seq} (hs : s.namesDistinct)
    (hl : s.lock = .held s.caller.id) (hq : s.caller.seq = some q) (hp : q.past <+: heldSteps) :
    Safety.Serial before s ↔ ∃ part, Puts q.past part ∧ Chain before s part := by
  simp only [Safety.Serial, hl]
  constructor
  · rintro ⟨whole, hw, c, hc, hid, q', hq', ls, hls, ht⟩
    obtain rfl := eq_caller_of_id hs hc hid
    obtain rfl := Option.some.inj (hq.symm.trans hq')
    exact ⟨_, (puts_heldSteps.2 ⟨ls, hls, rfl⟩).take hp, whole, hw, ht⟩
  · rintro ⟨part, hpart, whole, hw, ht⟩
    obtain ⟨us, hus, hcut⟩ := hpart.extend hp
    obtain ⟨ls, hls, rfl⟩ := puts_heldSteps.1 hus
    exact ⟨whole, hw, s.caller, List.mem_cons_self .., rfl, q, hq, ls, hls, hcut ▸ ht⟩

/-- Serving a caller keeps the chain where neither trace nor lock changes, and the position does not where the caller
holds the lock. -/
theorem serial_of_caller {before : List Token} {s t : State} (htokens : t.tokens = s.tokens)
    (hlock : t.lock = s.lock) (ho : t.others = s.others) (hid : t.caller.id = s.caller.id)
    (hseq : s.lock = .held s.caller.id → t.caller.seq = s.caller.seq) (h : Safety.Serial before s) :
    Safety.Serial before t := by
  obtain ⟨whole, hw, hm⟩ := h
  refine ⟨whole, hw, ?_⟩
  rw [hlock, htokens]
  cases hl : s.lock with
  | free => simpa only [hl] using hm
  | held k =>
    simp only [hl, State.callers, List.exists_mem_cons_iff, ho, hid] at hm ⊢
    refine hm.imp_left fun ⟨hk, hpart⟩ => ⟨hk, ?_⟩
    rwa [hseq (by rw [hl, hk])]

section

variable {before : List Token} {q : Seq} {m : Micro} {s t : State} (h : Advance q m s t) (hs : Safety.Inv s)
include h hs

/-- A step while the lock is held adds its token to the part. -/
theorem Advance.serial_of_heldSteps {part : List Token} (hp : q.past ++ [m] <+: heldSteps) (hpart : Puts q.past part)
    (hc : Chain before s part) : Safety.Serial before t := by
  have goes_on : t.caller.seq = some q.succ :=
    h.seq_of_not_ends (of_mem_heldSteps (hp.subset (by simp))).1
  have past : q.succ.past = q.past ++ [m] := Seq.past_succ h.next
  have critical : t.caller.inCritical = true := inCritical_of_heldSteps goes_on (by simp [past]) (past ▸ hp)
  have ht := h.inv hs
  obtain ⟨hnames, -⟩ := id ht
  rw [serial_iff_of_held hnames ((lock_eq_held_iff ht).2 critical) goes_on (past ▸ hp), past]
  exact ⟨_, hpart.snoc m s.sdi, hc.of_tokens h.tokens⟩

/-- A step of an operation that serialises itself keeps the chain. -/
theorem Advance.serial (hop : serialised q.op = true) (hser : Safety.Serial before s) : Safety.Serial before t := by
  have fits := h.fits hs
  obtain ⟨hnames, -⟩ := id hs
  obtain ⟨u, hu, ht⟩ := h.performed
  have ht_lock : t.lock = u.lock := by rw [ht]; rfl
  cases serialPlace hop (Seq.steps_eq h.next) with
  | lock hpre hm =>
    subst hm
    have starts : q.past ++ [.lock] <+: heldSteps := by simp [hpre, heldSteps]
    have nothing : Puts q.past [] := by rw [hpre]; rfl
    exact h.serial_of_heldSteps hs starts nothing ((serial_iff_of_free hu.of_lock.1).1 hser)
  | held hpre hp =>
    have hpast : q.past <+: heldSteps := (List.prefix_append ..).trans hp
    have holds := (lock_eq_held_iff hs).2 (inCritical_of_heldSteps h.seq hpre hpast)
    obtain ⟨part, hpart, hc⟩ := (serial_iff_of_held hnames holds h.seq hpast).1 hser
    exact h.serial_of_heldSteps hs hp hpart hc
  | unlock hpre hm =>
    subst hm
    obtain ⟨holds, frees⟩ := hu.of_unlock
    obtain ⟨part, hpart, hc⟩ := (serial_iff_of_held hnames holds h.seq (hpre ▸ List.prefix_rfl)).1 hser
    obtain ⟨ls, hls, rfl⟩ := puts_heldSteps.1 (hpre ▸ hpart)
    rw [serial_iff_of_free (ht_lock.trans frees)]
    exact Chain.whole hls (by simpa [Micro.tokens] using hc.of_tokens h.tokens)
  | outside hpre hm hl hul =>
    have not_critical : ¬s.caller.inCritical = true := by
      rw [Caller.inCritical_of_some h.seq]
      simpa using hpre
    refine serial_of_caller ?_ (ht_lock.trans (hu.lock_eq fits.notBuild hl hul)) h.others h.caller_id ?_ hser
    · rw [h.tokens, Micro.tokens_of_silent hm, List.append_nil]
    · exact fun holds => absurd ((lock_eq_held_iff hs).1 holds) not_critical

end

/-! ### Steps of callers that issue only operations that serialise themselves -/

theorem Performed.caller_port {s t : State} {m : Micro} (h : Performed s m t) : t.caller.port = s.caller.port := by
  cases h <;> simp

theorem Advance.onlyAcquires {q : Seq} {m : Micro} {s t : State} (h : Advance q m s t)
    (hs : s.caller.onlyAcquires) : t.caller.onlyAcquires := by
  obtain ⟨hport, hop⟩ := hs
  obtain ⟨u, hu, ht⟩ := h.performed
  have same_port : t.caller.port = s.caller.port := by rw [ht]; exact hu.caller_port
  refine ⟨same_port ▸ hport, fun p hp => ?_⟩
  rw [h.caller_seq] at hp
  split at hp <;> cases hp
  exact hop q h.seq

/-- The invariant of a run in which callers issue only operations that serialise themselves. -/
structure SerialRun (before : List Token) (s : State) : Prop where
  inv : Safety.Inv s
  only : ∀ c ∈ s.callers, c.onlyAcquires
  serial : Safety.Serial before s

namespace SerialRun

variable {before : List Token} {s t : State}

theorem caller_only (h : SerialRun before s) : s.caller.onlyAcquires := h.only _ (List.mem_cons_self ..)

theorem only_of_caller (h : SerialRun before s) (ho : t.others = s.others) (hc : t.caller.onlyAcquires) :
    ∀ c ∈ t.callers, c.onlyAcquires := by
  rw [State.callers, ho]
  exact List.forall_mem_cons.2 ⟨hc, (List.forall_mem_cons.1 h.only).2⟩

theorem serves (hu : Serves s t) (h : SerialRun before s) : SerialRun before t where
  inv := hu.inv h.inv
  only := by simpa only [hu.perm.mem_iff] using h.only
  serial := by
    have tokens : t.tokens = s.tokens := by rw [← hu.rest]; rfl
    simpa only [Safety.Serial, hu.lock, tokens, hu.perm.mem_iff] using h.serial

theorem takes {w : PortWord} {rest : List PortWord} (hp : s.caller.port = w :: rest) (h : SerialRun before s) :
    SerialRun before (taken s rest) where
  inv := inv_taken rest h.inv
  only := by
    obtain ⟨hport, hop⟩ := h.caller_only
    rw [hp] at hport
    exact h.only_of_caller rfl ⟨(List.forall_mem_cons.1 hport).2, hop⟩
  serial := serial_of_caller (s := s) rfl rfl rfl rfl (fun _ => rfl) h.serial

theorem accepts {i : Instr} (hi : serialised i = true) (hl : s.life = .ready) (hq : s.caller.seq = none)
    (h : SerialRun before s) : SerialRun before (s.accept i) where
  inv := inv_accept (ne_init_of_serialised hi) hl hq h.inv
  only := by
    refine h.only_of_caller rfl ⟨h.caller_only.1, fun q hop => ?_⟩
    cases hop
    exact hi
  serial := by
    refine serial_of_caller (s := s) rfl rfl rfl rfl (fun holds => ?_) h.serial
    have critical := (lock_eq_held_iff h.inv).1 holds
    rw [Caller.inCritical_of_none hq] at critical
    cases critical

theorem advances (hv : Advances s t) (h : SerialRun before s) : SerialRun before t := by
  obtain ⟨q, m, ha⟩ := hv
  exact ⟨ha.inv h.inv, h.only_of_caller ha.others (ha.onlyAcquires h.caller_only),
    ha.serial h.inv (h.caller_only.2 q ha.seq) h.serial⟩

theorem refuses (r : RefuseReason) (h : SerialRun before s) : SerialRun before (s.refuse r) :=
  ⟨h.inv, h.only, h.serial⟩

/-- An operation that serialises itself, performed as a whole. -/
theorem of_exec {i : Instr} (hi : serialised i = true) (h : SerialRun before s) (he : exec i s = .next t) :
    SerialRun before t := by
  obtain ⟨hq, ⟨r, -, rfl⟩ | ⟨hadm, hall⟩⟩ := operate_cases ((exec_eq_operate ..).symm.trans he)
  · exact h.refuses r
  · have hne := ne_init_of_serialised hi
    obtain ⟨rfl, -⟩ | ⟨-, hl⟩ := admission_eq_none hadm
    · exact absurd rfl hne
    obtain ⟨ys, zs, hcut, hc, -⟩ := performAll_cases hall
    have run := advances_of_completes hne (pre := []) hcut (fun _ => rfl) hc
    clear he hall hc
    induction run with
    | refl => exact h.accepts hi hl hq
    | tail _ hv ih => exact ih.advances hv

/-- Every case of a step keeps the invariant: no word issued is an `INIT`. -/
theorem of_step (h : SerialRun before s) (hstep : step s = .next t) : SerialRun before t := by
  obtain ⟨u, hu, hc⟩ := step_cases hstep
  replace h := h.serves hu
  have issued {w : PortWord} {rest : List PortWord} {i : Instr} (hp : u.caller.port = w :: rest)
      (hd : decode w = .ok i) : serialised i = true := h.caller_only.1 w (by simp [hp]) i hd
  cases hc with
  | idle ht => exact ht ▸ h
  | resume q m v hq hm hv ht => exact h.advances ⟨q, m, hq, hm, v, performed_of_done hv, ht⟩
  | illegal w rest e hq hp hd ht => exact ht ▸ (h.takes hp).refuses .illegalCommand
  | whole w rest i hq hp hd ha ht => exact (h.takes hp).of_exec (issued hp hd) ht
  | refused w rest i r hq hp hd hi hr ht => exact ht ▸ (h.takes hp).refuses r
  | accepted w rest i hq hp hd hi hr ht =>
    obtain ⟨rfl, -⟩ | ⟨-, hl⟩ := admission_eq_none hr
    · exact absurd rfl hi
    · exact ht ▸ (h.takes hp).accepts (issued hp hd) hl hq

end SerialRun

/-- Settles O53: the lock is free, and no acquisition has been performed. -/
theorem serialAtReset : Obligations.SerialAtReset := by
  have tokens : State.reset.tokens = setupTokens := State.reset.map_token_events setupTokens
  refine ⟨tokens, (serial_iff_of_free rfl).2 ⟨[], nofun, ?_⟩⟩
  simp [tokens]

/-- Settles O54: only the holder of the lock puts an event on the trace, and it does so in the order of its
acquisition, which is whole when it frees the lock. -/
theorem acquisitionsNeverInterleave : Obligations.AcquisitionsNeverInterleave := by
  intro before s t hs honly hser hstep
  obtain ⟨-, only, serial⟩ := SerialRun.of_step ⟨hs, honly, hser⟩ hstep
  exact ⟨serial, only⟩

end Sys2Proof.Machine
end

section
/-! Serving a caller beside others at work (R61, R183): O9, O11. -/

namespace Sys2Proof.Machine

/-! ### Serving a caller -/

theorem State.serve_of_seq {s : State} {q : Seq} (hq : s.caller.seq = some q) : s.serve exec = s.resume q := by
  simp only [State.serve, hq]

theorem State.serve_of_no_word {s : State} (hq : s.caller.seq = none) (hp : s.caller.port = []) :
    s.serve exec = .next s := by
  simp only [State.serve, hq, hp]

section

variable {s : State} {w : PortWord} {rest : List PortWord} (hq : s.caller.seq = none) (hp : s.caller.port = w :: rest)
include hq hp

theorem State.serve_of_illegal {e : DecodeError} (hd : decode w = .error e) :
    s.serve exec = .next ((taken s rest).refuse .illegalCommand) := by
  simp only [State.serve, hq, hp, hd, taken]

theorem State.serve_of_init (hd : decode w = .ok .init) : s.serve exec = exec .init (taken s rest) := by
  simp [State.serve, hq, hp, hd, taken]

/-- Beside another caller at work an operation other than `INIT` is begun and no more. -/
theorem State.serve_of_contended {i : Instr} (hd : decode w = .ok i) (ha : s.alone = false) (hi : i ≠ .init) :
    s.serve exec = (taken s rest).begin i := by
  simp [State.serve, hq, hp, hd, ha, hi, taken]

end

/-! ### Beginning an operation -/

theorem State.begin_of_refused {s : State} {i : Instr} {r : RefuseReason} (h : admission i s.life = some r) :
    s.begin i = .next (s.refuse r) := by
  simp only [State.begin, h]

theorem State.begin_of_admitted {s : State} {i : Instr} (h : admission i s.life = none) :
    s.begin i = .next (s.accept i) := by
  simp only [State.begin, h]

section

variable {i : Instr} {life : Life} (hi : i ≠ .init)
include hi

theorem admission_of_ready (hl : life = .ready) : admission i life = none := by simp [admission, hl, hi]

theorem admission_of_unbuilt (hl : life = .unbuilt) : admission i life = some .notReady := by simp [admission, hl, hi]

theorem admission_of_closed (hl : life = .closed) : admission i life = some .closed := by simp [admission, hl, hi]

end

/-- Settles O9: the lifecycle decides whether the operation is accepted, and `INIT` is performed whatever others do. -/
theorem contendedWordIsAcceptedOrRefused : Obligations.ContendedWordIsAcceptedOrRefused := by
  intro s u w rest i hu ha hq hp hd
  rw [step_of_choose hu]
  have begins (hi : i ≠ .init) : u.serve exec = (taken u rest).begin i := State.serve_of_contended hq hp hd ha hi
  refine ⟨fun hi hl => ?_, fun hi hl => ?_, fun hi hl => ?_, ?_⟩
  · exact (begins hi).trans (State.begin_of_admitted (admission_of_ready hi hl))
  · exact (begins hi).trans (State.begin_of_refused (admission_of_unbuilt hi hl))
  · exact (begins hi).trans (State.begin_of_refused (admission_of_closed hi hl))
  · rintro rfl
    exact State.serve_of_init hq hp hd

/-! ### Pin events of one step -/

/-- The step leaves the trace as it is, or adds one event. -/
def AtMostOneEvent (s t : State) : Prop := t.trace = s.trace ∨ ∃ e, t.trace = s.trace ++ [e]

theorem Advance.atMostOneEvent {q : Seq} {m : Micro} {s t : State} (h : Advance q m s t) : AtMostOneEvent s t := by
  have length := m.length_tokens s.sdi
  rw [AtMostOneEvent, h.trace]
  cases hm : m.isPinEvent with
  | true =>
    rw [hm, if_pos rfl] at length
    obtain ⟨tok, htok⟩ := List.length_eq_one_iff.1 length
    exact .inr ⟨⟨s.caller.id, tok⟩, by rw [htok]; rfl⟩
  | false =>
    rw [Micro.tokens_of_silent hm]
    exact .inl (List.append_nil _)

theorem State.resume_atMostOneEvent {s t : State} {q : Seq} (hq : s.caller.seq = some q) (h : s.resume q = .next t) :
    AtMostOneEvent s t := by
  unfold State.resume at h
  split at h
  · cases h
  next m hm =>
    split at h
    next u hu =>
      cases h
      exact Advance.atMostOneEvent ⟨hq, hm, u, performed_of_done hu, rfl⟩
    next => cases h; exact .inl rfl
    next => cases h

theorem State.begin_trace {s t : State} {i : Instr} (h : s.begin i = .next t) : t.trace = s.trace := by
  cases ha : admission i s.life with
  | none => rw [State.begin_of_admitted ha] at h; cases h; rfl
  | some r => rw [State.begin_of_refused ha] at h; cases h; rfl

/-- A newly issued word other than `INIT`, served beside another caller at work, puts no event on the trace. -/
theorem State.serve_trace_of_contended {s t : State} (hq : s.caller.seq = none) (ha : s.alone = false)
    (hw : ∀ w rest, s.caller.port = w :: rest → decode w ≠ .ok .init) (h : s.serve exec = .next t) :
    t.trace = s.trace := by
  cases hp : s.caller.port with
  | nil => rw [State.serve_of_no_word hq hp] at h; cases h; rfl
  | cons w rest =>
    cases hd : decode w with
    | error e => rw [State.serve_of_illegal hq hp hd] at h; cases h; rfl
    | ok i =>
      have hi : i ≠ .init := fun e => hw w rest hp (e ▸ hd)
      rw [State.serve_of_contended hq hp hd ha hi] at h
      exact State.begin_trace (s := taken s rest) h

/-- Settles O11: an operation in progress performs one step, and a word issued beside another caller none. -/
theorem contendedStepIsAtMostOnePinEvent : Obligations.ContendedStepIsAtMostOnePinEvent := by
  intro s t u h hu hc
  have trace : u.trace = s.trace := by rw [← (serves_of_choose hu).rest]
  rw [step_of_choose hu] at h
  rw [← trace]
  cases hq : u.caller.seq with
  | some q => exact State.resume_atMostOneEvent hq (State.serve_of_seq hq ▸ h)
  | none =>
    obtain ⟨ha, hw⟩ := hc.resolve_left (by simp [hq])
    exact .inl (State.serve_trace_of_contended hq ha hw h)

end Sys2Proof.Machine
end

section
/-! The lock (R62, R63, R141): O29, O30. -/

namespace Sys2Proof.Machine

theorem State.takeLock_of_free {s : State} (h : s.lock = .free) :
    s.takeLock = .done { s with lock := .held s.caller.id } := by
  simp only [State.takeLock, h]

theorem State.takeLock_of_held {s : State} {d : Nat} (h : s.lock = .held d) : s.takeLock = .wait := by
  simp only [State.takeLock, h]

theorem State.releaseLock_of_held {s : State} (h : s.lock = .held s.caller.id) :
    s.releaseLock = .done { s with lock := .free } :=
  if_pos h

/-- Settles O29: the lock is taken where it is free, waited for where it is not, and freed by its holder. -/
theorem lockAndUnlock : Obligations.LockAndUnlock :=
  fun _ => ⟨State.takeLock_of_free, fun _ => State.takeLock_of_held, State.releaseLock_of_held⟩

/-- Settles O30: the first step of an acquisition is `lock()`, so it waits before it has done anything. -/
theorem acquisitionWaitsForTheLock : Obligations.AcquisitionWaitsForTheLock := by
  intro s i d ⟨hl, _, hq⟩ hi held
  have hne : i ≠ .init := by
    rintro rfl
    cases hi
  obtain ⟨r, -, steps_eq⟩ := steps_of_acquires hi
  have waits : (s.accept i).perform .lock = .wait := State.takeLock_of_held (s := s.accept i) held
  calc exec i s = (s.accept i).performAll (steps i) := by rw [exec_eq_operate, operate_ready hl hq i hne]
    _ = .next (s.accept i) := by rw [steps_eq]; exact performAll_of_wait waits _
    _ = .next (waitingState s i) := rfl

end Sys2Proof.Machine
end

section
/-! The words of the command port: a word decodes to an instruction exactly when it is the encoding of that instruction
and the instruction is well formed (R82, R83, R90, R93): O1, O2, O4. -/

namespace Sys2Proof

/-! ### The fields of a command word -/

/-- A command word is its three fields, one after another (R90). -/
theorem cmdWord_eq_append (op a b : Byte) : cmdWord op a b = op ++ a ++ b := by
  apply BitVec.eq_of_getLsbD_eq
  intro i hi
  simp only [cmdWord, BitVec.getLsbD_or, BitVec.getLsbD_shiftLeft, BitVec.getLsbD_setWidth, BitVec.getLsbD_append]
  grind

@[simp] theorem cmdOp_cmdWord (op a b : Byte) : cmdOp (cmdWord op a b) = op := by
  rw [cmdOp, cmdWord_eq_append, BitVec.extractLsb'_append_eq_of_le (by decide)]
  exact BitVec.extractLsb'_append_eq_left

@[simp] theorem cmdA_cmdWord (op a b : Byte) : cmdA (cmdWord op a b) = a := by
  rw [cmdA, cmdWord_eq_append, BitVec.extractLsb'_append_eq_of_le (by decide)]
  exact BitVec.extractLsb'_append_eq_right

@[simp] theorem cmdB_cmdWord (op a b : Byte) : cmdB (cmdWord op a b) = b := by
  rw [cmdB, cmdWord_eq_append]
  exact BitVec.extractLsb'_append_eq_right

theorem cmdWord_fields (w : BitVec 24) : cmdWord (cmdOp w) (cmdA w) (cmdB w) = w := by
  rw [cmdWord_eq_append, cmdOp, cmdA, cmdB, BitVec.extractLsb'_append_extractLsb'_eq_extractLsb' (by rfl),
    BitVec.extractLsb'_append_extractLsb'_eq_extractLsb' (by rfl)]
  exact BitVec.extractLsb'_eq_self

/-! ### The operation map -/

theorem unused_eq_ok_iff {op operands : Byte} {i j : Instr} :
    unused op operands i = .ok j ↔ operands = 0 ∧ i = j := by
  unfold unused
  split <;> simp_all

theorem decodeCmd_of_encode {i : Instr} {w : BitVec 24} (h : encode i = .cmd w) : decodeCmd w = .ok i := by
  cases i with
  | writeFrame | readFrame => cases h
  | init | recvbyte | acquire | tempExact | tempPoly3 | tempPoly4 | tempPoly5 | close => cases h; rfl
  | sendbyte | writereg | readregs => cases h; rw [decodeCmd, cmdOp_cmdWord, cmdA_cmdWord, cmdB_cmdWord]; rfl

/-- A branch of the operation map is taken, or the ones after it are tried. -/
theorem decodeCmd_branch {op c : Byte} {x y : Except DecodeError Instr} {i : Instr} {P : Prop}
    (h : (if op = c then x else y) = .ok i) (taken : op = c → x = .ok i → P) (passed : y = .ok i → P) : P := by
  split at h
  next hop => exact taken hop h
  next => exact passed h

/-- An operation without an operand takes both operand bytes as zero (R93). -/
theorem encode_of_bare {op a b c : Byte} {i j : Instr} (hop : op = c) (h : unused op (a ||| b) i = .ok j)
    (he : encode i = .cmd (cmdWord c 0 0)) : encode j = .cmd (cmdWord op a b) := by
  obtain ⟨h0, rfl⟩ := unused_eq_ok_iff.1 h
  obtain ⟨rfl, rfl⟩ := BitVec.or_eq_zero_iff.1 h0
  rwa [hop]

theorem encode_of_decodeCmd_cmdWord {op a b : Byte} {i : Instr} (h : decodeCmd (cmdWord op a b) = .ok i) :
    encode i = .cmd (cmdWord op a b) := by
  rw [decodeCmd, cmdOp_cmdWord, cmdA_cmdWord, cmdB_cmdWord] at h
  refine decodeCmd_branch h (fun hop h => encode_of_bare hop h rfl) fun h => ?_
  refine decodeCmd_branch h (fun hop h => ?sendbyte) fun h => ?_
  case sendbyte =>
    obtain ⟨rfl, rfl⟩ := unused_eq_ok_iff.1 h
    rw [hop, encode]
  refine decodeCmd_branch h (fun hop h => encode_of_bare hop h rfl) fun h => ?_
  refine decodeCmd_branch h (fun hop h => ?writereg) fun h => ?_
  case writereg => cases h; rw [hop, encode]
  refine decodeCmd_branch h (fun hop h => ?readregs) fun h => ?_
  case readregs => cases h; rw [hop, encode]
  iterate 6 refine decodeCmd_branch h (fun hop h => encode_of_bare hop h rfl) fun h => ?_
  cases h

/-- A command word has the meaning whose encoding it is, and no other (R90, R93). -/
theorem decodeCmd_eq_ok_iff {w : BitVec 24} {i : Instr} : decodeCmd w = .ok i ↔ encode i = .cmd w := by
  refine ⟨fun h => ?_, decodeCmd_of_encode⟩
  rw [← cmdWord_fields w] at h ⊢
  exact encode_of_decodeCmd_cmdWord h

/-! ### The frames -/

theorem frameWordW_fields {w : BitVec 16} (h : w.getLsbD 15 = true) :
    frameWordW (w.extractLsb' 8 7) (w.extractLsb' 0 8) = w := by
  apply BitVec.eq_of_getLsbD_eq
  intro i hi
  interval_cases i <;> simp_all [frameWordW]

theorem decodeFrameW_frameWordW (idx : BitVec 7) (value : Byte) :
    decodeFrameW (frameWordW idx value) = .ok (.writeFrame idx value) := by
  have first_bit : (frameWordW idx value).getLsbD 15 = true := by simp [frameWordW]
  have index : (frameWordW idx value).extractLsb' 8 7 = idx := by
    ext i hi
    interval_cases i <;> simp [frameWordW]
  have data : (frameWordW idx value).extractLsb' 0 8 = value := by
    ext i hi
    interval_cases i <;> simp [frameWordW]
  rw [decodeFrameW, if_pos first_bit, index, data]

theorem decodeFrameW_eq_ok_iff {w : BitVec 16} {i : Instr} : decodeFrameW w = .ok i ↔ encode i = .frameW w := by
  constructor
  · intro h
    unfold decodeFrameW at h
    split at h
    next first_bit => cases h; rw [encode, frameWordW_fields first_bit]
    next => cases h
  · intro h
    cases i with
    | writeFrame idx value => cases h; exact decodeFrameW_frameWordW idx value
    | _ => cases h

/-- A read frame decodes to itself where its first bit is 0 (R83). -/
theorem decodeFrameR_eq_ok_iff {w count : Byte} {i : Instr} :
    decodeFrameR w count = .ok i ↔ encode i = .frameR w count ∧ i.wf = true := by
  constructor
  · intro h
    unfold decodeFrameR at h
    split at h
    next => cases h
    next first_bit => cases h; exact ⟨rfl, by simpa [Instr.wf] using first_bit⟩
  · rintro ⟨h, hwf⟩
    cases i with
    | readFrame startAddr n => cases h; simp_all [decodeFrameR, Instr.wf]
    | _ => cases h

/-! ### Every word of the port -/

/-- Only a bare read frame can be ill-formed (R83). -/
theorem wf_of_encode {i : Instr} (h : ∀ w count, encode i ≠ .frameR w count) : i.wf = true := by
  cases i with
  | readFrame startAddr count => exact absurd rfl (h startAddr count)
  | _ => rfl

/-- The decoder is the inverse of the encoder on well-formed instructions. -/
theorem decode_eq_ok_iff {w : PortWord} {i : Instr} : decode w = .ok i ↔ encode i = w ∧ i.wf = true := by
  cases w with
  | cmd w =>
    rw [decode, decodeCmd_eq_ok_iff]
    exact ⟨fun h => ⟨h, wf_of_encode (by simp [h])⟩, And.left⟩
  | frameW w =>
    rw [decode, decodeFrameW_eq_ok_iff]
    exact ⟨fun h => ⟨h, wf_of_encode (by simp [h])⟩, And.left⟩
  | frameR w count => exact decodeFrameR_eq_ok_iff

/-- Settles O1: the encoding of a well-formed instruction decodes to it, whatever its format. -/
theorem decodeOfEncode : Obligations.DecodeOfEncode := fun _ hwf => decode_eq_ok_iff.2 ⟨rfl, hwf⟩

/-- Settles O2: the other direction of the same equivalence. -/
theorem encodeOfDecode : Obligations.EncodeOfDecode := fun _ _ h => decode_eq_ok_iff.1 h

/-- Settles O4: the decoder evaluated on the words written out. -/
theorem commandWordsOfTheMap : Obligations.CommandWordsOfTheMap := by
  unfold Obligations.CommandWordsOfTheMap
  decide

end Sys2Proof
end

section
/-! A command word is legal exactly where it matches a row of the opcode table (R93, R98): O3. -/

namespace Sys2Proof

/-! ### Rows and operation codes -/

theorem CmdRow.matches_iff (r : CmdRow) (w : BitVec 24) : r.matches w = true ↔ w &&& r.mask = r.pattern := by
  rw [CmdRow.matches, beq_iff_eq]

/-- Where a row's mask keeps a whole field, a matching word has the row's value in it. -/
theorem CmdRow.field_eq_of_matches {r : CmdRow} {w : BitVec 24} (h : r.matches w = true) {start len : Nat}
    (kept : r.mask.extractLsb' start len = BitVec.allOnes len) :
    w.extractLsb' start len = r.pattern.extractLsb' start len :=
  calc w.extractLsb' start len
      = w.extractLsb' start len &&& r.mask.extractLsb' start len := by rw [kept, BitVec.and_allOnes]
    _ = (w &&& r.mask).extractLsb' start len := BitVec.extractLsb'_and.symm
    _ = r.pattern.extractLsb' start len := by rw [(r.matches_iff w).1 h]

/-- Every row fixes the operation code (R90). -/
theorem CmdRow.cmdOp_eq_of_matches {r : CmdRow} (hr : r ∈ cmdTable) {w : BitVec 24} (h : r.matches w = true) :
    cmdOp w = cmdOp r.pattern := by
  have op_mask : ∀ r ∈ cmdTable, r.mask.extractLsb' 16 8 = BitVec.allOnes 8 := by decide
  exact CmdRow.field_eq_of_matches h (op_mask r hr)

/-- No two rows match one word. -/
theorem cmdTable_disjoint (w : BitVec 24) :
    cmdTable.Pairwise (fun r q => ¬(r.matches w = true ∧ q.matches w = true)) := by
  have ops_differ : cmdTable.Pairwise (fun r q => cmdOp r.pattern ≠ cmdOp q.pattern) := by decide
  refine ops_differ.imp_of_mem fun {r q} hr hq hne ⟨hrw, hqw⟩ => hne ?_
  rw [← r.cmdOp_eq_of_matches hr hrw, q.cmdOp_eq_of_matches hq hqw]

/-! ### Rows and instructions -/

open Laws in
theorem encode_in_table (i : Instr) : TableRow.Statement i := by
  cases i with
  | init => exact TableRow.init
  | sendbyte byte => exact TableRow.sendbyte byte
  | recvbyte => exact TableRow.recvbyte
  | writereg addr value => exact TableRow.writereg addr value
  | readregs startAddr count => exact TableRow.readregs startAddr count
  | acquire => exact TableRow.acquire
  | tempExact => exact TableRow.tempExact
  | tempPoly3 => exact TableRow.tempPoly3
  | tempPoly4 => exact TableRow.tempPoly4
  | tempPoly5 => exact TableRow.tempPoly5
  | close => exact TableRow.close
  | writeFrame idx value => exact TableRow.writeFrame idx value
  | readFrame startAddr count => exact TableRow.readFrame startAddr count

theorem exists_row_of_decodeCmd {w : BitVec 24} {i : Instr} (h : decodeCmd w = .ok i) :
    ∃ r ∈ cmdTable, r.matches w = true ∧ r.mnemonic = i.mnemonic := by
  have row := encode_in_table i
  rw [Laws.TableRow.Statement, decodeCmd_eq_ok_iff.1 h] at row
  obtain ⟨r, hr, hname, hw⟩ := row
  exact ⟨r, hr, hw, hname⟩

/-- A row without operands has one word, and it is legal; the other three rows have operands (R90). -/
theorem CmdRow.bare_or_operands {r : CmdRow} (hr : r ∈ cmdTable) :
    (r.mask = BitVec.allOnes 24 ∧ (decodeCmd r.pattern).isOk = true) ∨
      r = ⟨"SENDBYTE", 0x100000, 0xFF00FF⟩ ∨ r = ⟨"WRITEREG", 0x120000, 0xFF0000⟩ ∨
      r = ⟨"READREGS", 0x130000, 0xFF0000⟩ := by
  revert r
  decide

theorem exists_decodeCmd_of_matches {r : CmdRow} (hr : r ∈ cmdTable) {w : BitVec 24} (h : r.matches w = true) :
    ∃ i, decodeCmd w = .ok i := by
  have op_eq := CmdRow.cmdOp_eq_of_matches hr h
  have with_op {op : Byte} (hop : cmdOp w = op) : cmdWord op (cmdA w) (cmdB w) = w := hop ▸ cmdWord_fields w
  obtain ⟨full, legal⟩ | rfl | rfl | rfl := CmdRow.bare_or_operands hr
  case inl =>
    have w_eq : w = r.pattern := by
      rw [← (r.matches_iff w).1 h, full, BitVec.and_allOnes]
    rw [w_eq]
    cases hd : decodeCmd r.pattern with
    | ok i => exact ⟨i, rfl⟩
    | error e => rw [hd] at legal; cases legal
  case inr.inl =>
    have b_eq : cmdB w = 0 := CmdRow.field_eq_of_matches h rfl
    have word : cmdWord 0x10 (cmdA w) (cmdB w) = w := with_op op_eq
    rw [b_eq] at word
    exact ⟨.sendbyte (cmdA w), decodeCmd_of_encode (congrArg PortWord.cmd word)⟩
  case inr.inr.inl =>
    exact ⟨.writereg (cmdA w) (cmdB w), decodeCmd_of_encode (congrArg PortWord.cmd (with_op op_eq))⟩
  case inr.inr.inr =>
    exact ⟨.readregs (cmdA w) (cmdB w), decodeCmd_of_encode (congrArg PortWord.cmd (with_op op_eq))⟩

/-- Settles O3: a legal word is the encoding of its instruction, which is a word of a row; a word of a row has that
row's operation code; and no two rows have one. -/
theorem commandWordsAreTheTableRows : Obligations.CommandWordsAreTheTableRows := by
  refine ⟨fun w => ⟨?_, ?_⟩, cmdTable_disjoint, fun _ _ => exists_row_of_decodeCmd⟩
  · rintro ⟨i, h⟩
    obtain ⟨r, hr, hw, -⟩ := exists_row_of_decodeCmd h
    exact ⟨r, hr, hw⟩
  · rintro ⟨r, hr, hw⟩
    exact exists_decodeCmd_of_matches hr hw

end Sys2Proof
end

section
/-! The wire frames (R82, R83, R94), and what `WRITEREG` puts on data-out (R124): O5, O24, O25. With
them the refusal of a word that does not decode (R93, R196): O8. -/

namespace Sys2Proof.Machine

/-! ### Operations that are one frame -/

/-- Where `LIFE` is ready, an operation whose steps complete up to its last one goes on to perform that one. -/
theorem exec_of_completes {s t : State} {i : Instr} {xs : List Micro} {m : Micro} (hs : s.Ready) (hi : i ≠ .init)
    (hsteps : steps i = xs ++ [m]) (h : Completes (s.accept i) xs t) : exec i s = t.performAll [m] := by
  obtain ⟨hl, -, hq⟩ := hs
  rw [exec_eq_operate, operate_ready hl hq i hi, hsteps, h.performAll_append]

/-- An operation that is one write frame (R82): the frame's tokens, the pins idle, and a completion. -/
theorem exec_writeFrameSteps {s : State} {i : Instr} {a v : Byte} (hs : s.Ready) (hi : i ≠ .init)
    (hsteps : steps i = writeFrameSteps a v ++ [.returnDone]) :
    exec i s = .next { s with
      pinCs := some .high
      pinClk := some .low
      pinSdo := some (Level.ofBit (v.getLsbD 0))
      trace := s.trace ++ s.events (writeFrameTokens a v)
      caller := returned s.caller .done } := by
  have ⟨_, hcfg, _⟩ := hs
  exact exec_of_completes hs hi hsteps (completes_writeFrame (s := s.accept i) hcfg a v)

/-- An operation that is one read frame (R83): the frame's tokens, the pins idle, and the bytes received. -/
theorem exec_readFrameSteps {s : State} {i : Instr} {a count : Byte} (hs : s.Ready) (hi : i ≠ .init)
    (hsteps : steps i = readFrameSteps a count.toNat ++ [.returnBytes]) :
    exec i s = .next { s with
      pinCs := some .high
      pinClk := some .low
      pinSdo := some (Level.ofBit (a.getLsbD 0))
      answers := s.answers.drop (8 * count.toNat)
      samples := s.samples + 8 * count.toNat
      trace := s.trace ++ s.events (readFrameTokens a (s.levels (8 * count.toNat)))
      caller := { returned s.caller (.bytes (s.bytesIn count.toNat)) with
        acc := if count = 0 then s.caller.acc else s.byteIn (count.toNat - 1) } } := by
  have ⟨_, hcfg, _⟩ := hs
  have zero_iff : count.toNat = 0 ↔ count = 0 := BitVec.toNat_eq (y := 0).symm
  rw [exec_of_completes hs hi hsteps (completes_readFrame (s := s.accept i) hcfg a count.toNat)]
  simp only [zero_iff]
  rfl

/-- The address byte of a write frame is the bit 1 and the index (R82). -/
theorem frameAddress_eq_append (idx : BitVec 7) : frameAddress idx = (1 : BitVec 1) ++ idx := by
  apply BitVec.eq_of_getLsbD_eq
  intro i hi
  rw [BitVec.getLsbD_append]
  interval_cases i <;> simp [frameAddress, Config.writeMarker]

/-- Settles O24: a bare write frame is one write frame whose address byte is `1` and the index. -/
theorem writeFrameIsSixteenBits : Obligations.WriteFrameIsSixteenBits := by
  intro s idx value hs
  rw [exec_writeFrameSteps hs (by simp) rfl, frameAddress_eq_append, writeFrameTokens]

/-- Settles O25: a bare read frame is one read frame, whatever the first bit of its address byte. -/
theorem readFrameIsEightBitsOutThenBytesIn : Obligations.ReadFrameIsEightBitsOutThenBytesIn :=
  fun _ _ _ hs => exec_readFrameSteps hs (by simp) rfl

/-! ### The bits of a write frame on data-out -/

theorem sdoBits_append (ts us : List Token) : sdoBits (ts ++ us) = sdoBits ts ++ sdoBits us :=
  List.filterMap_append

@[simp] theorem Level.toBit_ofBit (b : Bool) : (Level.ofBit b).toBit = b := by cases b <;> rfl

theorem sdoBits_sendTokens (v : Byte) : sdoBits (sendTokens v) = bitsMsbFirst v := by
  simp [sdoBits, sendTokens, bitsMsbFirst]

/-- Chip-select writes put nothing on data-out. -/
theorem sdoBits_writeFrameTokens (a v : Byte) :
    sdoBits (writeFrameTokens a v) = bitsMsbFirst a ++ bitsMsbFirst v := by
  have select (l : Level) : sdoBits [.wr .cs l] = [] := rfl
  simp only [writeFrameTokens, sdoBits_append, sdoBits_sendTokens, select, List.nil_append, List.append_nil]

/-- The bits of a write frame in time order are those of its address byte and of its data byte (R82). -/
theorem frameWordW_bits (idx : BitVec 7) (value : Byte) :
    (List.range 16).map (fun k => (frameWordW idx value).getLsbD (15 - k)) =
      bitsMsbFirst (frameAddress idx) ++ bitsMsbFirst value := by
  simp [List.range_succ, bitsMsbFirst, frameWordW, frameAddress, Config.writeMarker]

/-- The marker covers bit 7 of the address, so only the register's index is sent (R81, R125). -/
theorem writeAddress_eq_frameAddress (addr : Byte) : writeAddress addr = frameAddress (addressIndex addr) := by
  apply BitVec.eq_of_getLsbD_eq
  intro i hi
  interval_cases i <;> simp [writeAddress, frameAddress, addressIndex, Config.writeMarker]

/-- The tokens put on the trace since `s`. -/
theorem drop_tokens_of_events {s t : State} {ts : List Token} (h : t.trace = s.trace ++ s.events ts) :
    t.tokens.drop s.tokens.length = ts := by
  rw [State.tokens, State.tokens, h, List.map_append, State.map_token_events, List.drop_left]

/-- Settles O5: `WRITEREG` is one write frame, and the bits of its two bytes are those of the write frame's word. -/
theorem writeregSendsTheWriteFrame : Obligations.WriteregSendsTheWriteFrame := by
  intro s addr value hs
  refine ⟨_, frameWordW (addressIndex addr) value, exec_writeFrameSteps hs (by simp) rfl,
    decodeFrameW_frameWordW _ _, ?_⟩
  rw [drop_tokens_of_events rfl, sdoBits_writeFrameTokens, writeAddress_eq_frameAddress, frameWordW_bits]

/-! ### Words that do not decode -/

/-- Settles O8: serving a caller whose next word does not decode refuses the word, and nothing comes before that. -/
theorem illegalWordIsRefused : Obligations.IllegalWordIsRefused := by
  intro s u w rest e hu hq hp hd
  rw [step_of_choose hu, State.serve_of_illegal hq hp hd]
  rfl

end Sys2Proof.Machine
end

section
/-! The pin primitives (R110 to R114): O28. -/

namespace Sys2Proof.Machine

theorem State.modeOut_eq (s : State) (p : Role) : s.modeOut p = { s with
    modeCs := if p = .cs then .out else s.modeCs
    modeClk := if p = .clk then .out else s.modeClk
    modeSdo := if p = .sdo then .out else s.modeSdo
    modeSdi := if p = .sdi then .out else s.modeSdi
    trace := s.trace ++ s.events [.modeOut p] } := by
  cases p <;> rfl

theorem State.modeIn_eq (s : State) (p : Role) : s.modeIn p = { s with
    modeCs := if p = .cs then .input else s.modeCs
    modeClk := if p = .clk then .input else s.modeClk
    modeSdo := if p = .sdo then .input else s.modeSdo
    modeSdi := if p = .sdi then .input else s.modeSdi
    trace := s.trace ++ s.events [.modeIn p] } := by
  cases p <;> rfl

theorem State.wr_of_out {s : State} {p : OutPin} (h : s.mode p.role = .out) (l : Level) : s.wr p l = .done { s with
    pinCs := if p = .cs then some l else s.pinCs
    pinClk := if p = .clk then some l else s.pinClk
    pinSdo := if p = .sdo then some l else s.pinSdo
    trace := s.trace ++ s.events [.wr p l] } := by
  rw [State.wr, if_pos h]
  cases p <;> rfl

theorem State.sample_of_input {s : State} (h : s.modeSdi = .input) : s.sample = .done { s with
    answers := s.answers.tail
    samples := s.samples + 1
    trace := s.trace ++ s.events [.rd (levelFrom s.answers s.samples 0)]
    caller := { s.caller with acc := shiftIn s.caller.acc (levelFrom s.answers s.samples 0) } } := by
  rw [State.sample, if_pos h, State.sdi_eq]
  rfl

/-- Settles O28: a mode or a level is set for one pin only, and each primitive appends its one token. -/
theorem pinPrimitives : Obligations.PinPrimitives :=
  fun s => ⟨s.modeOut_eq, s.modeIn_eq, fun _ l h => State.wr_of_out h l, State.sample_of_input, rfl⟩

end Sys2Proof.Machine
end


section
/-! No step stops (R115, R127): O50. Every precondition of a primitive, and every value a step reads, is there when the
step comes: the invariant says what the steps done have left, and the order of an operation's steps which those are. -/

namespace Sys2Proof.Machine

/-! ### The preconditions of a step -/

/-- The precondition of a step (R112, R113, R63), and the value of R40 that it reads. -/
def State.Meets (s : State) : Micro → Prop
  | .wr p _ => s.mode p.role = .out
  | .sample => s.modeSdi = .input
  | .unlock => s.lock = .held s.caller.id
  | .decode => s.caller.bank.length = 8
  | .count | .returnReading | .returnTemperature _ => s.caller.reading.isSome = true
  | _ => True

theorem exists_decodeBank {bank : List Byte} (h : bank.length = 8) : ∃ r, decodeBank bank = some r := by
  match bank, h with
  | [_, _, _, _, _, _, _, _], _ => exact ⟨_, rfl⟩

theorem closeStep_ne_fault (s : State) (f : Fault) : s.closeStep ≠ .fault f := by
  unfold State.closeStep
  split
  · split <;> nofun
  · nofun
  · nofun

/-- A step whose precondition holds does not fail. -/
theorem perform_ne_fault {s : State} {m : Micro} (h : s.Meets m) (f : Fault) : s.perform m ≠ .fault f := by
  cases m with
  | wr p l => rw [perform_wr h]; nofun
  | sample => rw [State.perform, State.sample_of_input h]; nofun
  | lock =>
    cases hl : s.lock with
    | free => rw [State.perform, State.takeLock_of_free hl]; nofun
    | held d => rw [State.perform, State.takeLock_of_held hl]; nofun
  | unlock => rw [State.perform, State.releaseLock_of_held h]; nofun
  | decode =>
    obtain ⟨r, hr⟩ := exists_decodeBank h
    simp [State.perform, State.decodeStep, hr]
  | count | returnReading | returnTemperature =>
    obtain ⟨r, hr⟩ := Option.isSome_iff_exists.1 h
    simp [State.perform, State.count, State.returnReading, State.returnTemperature, hr]
  | close => exact closeStep_ne_fault s f
  | _ => nofun

/-! ### What an operation has done before a step -/

/-- The earlier step that leaves what the step needs. -/
def Micro.needs : Micro → Option Micro
  | .unlock => some .lock
  | .decode => some .bank
  | .count | .returnReading | .returnTemperature _ => some .decode
  | _ => none

/-- A step that ends its operation needs at most the decode. -/
theorem needs_of_ends {m n : Micro} (h : m.ends = true) (hn : m.needs = some n) : n = .decode := by
  cases m <;> simp_all [Micro.ends, Micro.needs]

theorem needs_of_transfers {m : Micro} (h : m.transfers = true) : m.needs = none := by
  cases m <;> trivial

/-- A frame, and what it returns, needs nothing. -/
theorem needs_of_mem_transfer {xs : List Micro} {r m : Micro} (hx : xs.all Micro.transfers = true)
    (hr : r.needs = none) (h : m ∈ xs ++ [r]) : m.needs = none := by
  obtain hm | hm := List.mem_append.1 h
  · exact needs_of_transfers (List.all_eq_true.1 hx m hm)
  · rwa [List.mem_singleton.1 hm]

/-- Outside acquisitions no step needs another. -/
theorem needs_of_not_acquires {i : Instr} {m : Micro} (hi : acquires i = false) (h : m ∈ steps i) : m.needs = none := by
  cases i with
  | init => exact (by decide : ∀ m ∈ stepsInit, m.needs = none) m h
  | sendbyte v => exact needs_of_mem_transfer (sendByte_transfers v) rfl h
  | recvbyte => exact needs_of_mem_transfer recvByte_transfers rfl h
  | writereg a v => exact needs_of_mem_transfer (writeFrameSteps_transfers (writeAddress a) v) rfl h
  | readregs a n => exact needs_of_mem_transfer (readFrameSteps_transfers (readAddress a) n.toNat) rfl h
  | writeFrame x v => exact needs_of_mem_transfer (writeFrameSteps_transfers (frameAddress x) v) rfl h
  | readFrame a n => exact needs_of_mem_transfer (readFrameSteps_transfers a n.toNat) rfl h
  | close => obtain rfl := List.mem_singleton.1 h; rfl
  | acquire | tempExact | tempPoly3 | tempPoly4 | tempPoly5 => cases hi

theorem needs_of_mem_heldSteps {m : Micro} (h : m ∈ heldSteps) : m.needs = none := by
  simp only [heldSteps, List.mem_cons, List.mem_append, List.not_mem_nil, or_false] at h
  obtain rfl | hf | rfl := h
  · rfl
  · exact needs_of_transfers (List.all_eq_true.1 acquisitionFrames_transfers m hf)
  · rfl

theorem acquires_of_needs {i : Instr} {m n : Micro} (hm : m ∈ steps i) (hn : m.needs = some n) : acquires i = true := by
  by_contra h
  rw [needs_of_not_acquires (Bool.eq_false_iff.2 h) hm] at hn
  cases hn

/-- The steps of an acquisition after those that hold the lock. -/
theorem needs_mem_after_heldSteps {l post : List Micro} {r m n : Micro} (hr : r.ends = true)
    (h : [.unlock, .decode, .count, r] = l ++ m :: post) (hn : m.needs = some n) : n ∈ heldSteps ++ l := by
  simp only [List.cons_eq_append_iff, List.cons.injEq, List.nil_eq, List.append_eq_nil_iff, reduceCtorEq, and_false,
    exists_const, or_false, ↓existsAndEq, true_and] at h
  obtain ⟨rfl, rfl, -⟩ | ⟨_, rfl, ⟨rfl, rfl, -⟩ | ⟨_, rfl, ⟨rfl, rfl, -⟩ | ⟨_, rfl, rfl, rfl, -⟩⟩⟩ := h
  · cases hn; simp [heldSteps]
  · cases hn; simp [heldSteps]
  · cases hn; simp
  · rw [needs_of_ends hr hn]; simp

/-- What a step needs has been done before it. -/
theorem needs_mem_of_steps {i : Instr} {pre post : List Micro} {m n : Micro} (h : steps i = pre ++ m :: post)
    (hn : m.needs = some n) : n ∈ pre := by
  have hi : acquires i = true := acquires_of_needs (by simp [h]) hn
  obtain ⟨r, hr, hs⟩ := steps_of_acquires hi
  rcases List.append_eq_append_iff.1 (hs.symm.trans h) with ⟨l, rfl, hl⟩ | ⟨_ | ⟨x, l⟩, hheld, hl⟩
  · exact needs_mem_after_heldSteps hr hl hn
  · rw [List.append_nil] at hheld
    rw [← hheld, ← List.append_nil heldSteps]
    exact needs_mem_after_heldSteps hr hl.symm hn
  · obtain ⟨rfl, -⟩ := List.cons.inj hl
    rw [needs_of_mem_heldSteps (by simp [hheld])] at hn
    cases hn

/-! ### The invariant gives every precondition -/

theorem State.configured.mode_out {s : State} (h : s.configured) (p : OutPin) : s.mode p.role = .out := by
  obtain ⟨hcs, hclk, hsdo, -⟩ := h
  cases p
  · exact hcs
  · exact hclk
  · exact hsdo

theorem placed_of_inv {s : State} (hs : Safety.Inv s) : s.caller.placed := by
  obtain ⟨-, -, -, hplaced⟩ := hs
  exact (List.forall_mem_cons.1 hplaced).1

section

variable {s : State} {q : Seq} {m : Micro} (hs : Safety.Inv s) (hq : s.caller.seq = some q)
include hs hq

theorem configured_of_seq : s.configured := by
  obtain ⟨-, -, hlife, -⟩ := hs
  obtain ⟨hidle, hwired, -⟩ := s.lifeAgrees_iff.1 hlife
  refine (hwired fun hl => ?_).1
  have idle := (List.forall_mem_cons.1 (hidle hl)).1
  rw [hq] at idle
  cases idle

theorem lock_held_of_next_unlock (hm : q.next = some .unlock) : s.lock = .held s.caller.id := by
  have cut := Seq.steps_eq hm
  have hop : acquires q.op = true := acquires_of_needs (List.mem_of_getElem? hm) rfl
  refine (lock_eq_held_iff hs).2 ?_
  cases serialPlace ((serialised_iff _).2 (.inl hop)) cut with
  | lock _ h => cases h
  | held _ h => exact absurd rfl (of_mem_heldSteps (h.subset (by simp))).2
  | unlock h _ => exact inCritical_of_heldSteps hq (by simp [h, heldSteps]) (by rw [h])
  | outside _ _ _ h => exact absurd rfl h

/-- The next step of the caller being served has its precondition (R112, R113, R63), and the values it reads. -/
theorem meets_of_inv (hm : q.next = some m) : s.Meets m := by
  obtain ⟨-, -, -, hbank, hreading⟩ := (Caller.placed_iff_of_some hq).1 (placed_of_inv hs)
  have cfg := configured_of_seq hs hq
  have performed {n : Micro} (hn : m.needs = some n) : q.past.contains n = true :=
    List.contains_iff_mem.2 (needs_mem_of_steps (Seq.steps_eq hm) hn)
  cases m with
  | wr p l => exact cfg.mode_out p
  | sample =>
    obtain ⟨-, -, -, hsdi⟩ := cfg
    exact hsdi
  | unlock => exact lock_held_of_next_unlock hs hq hm
  | decode => exact hbank (performed rfl)
  | count | returnReading | returnTemperature => exact hreading (performed rfl)
  | _ => trivial

/-- The next step of an operation in progress completes or leaves the caller waiting. -/
theorem resume_next : ∃ t, s.resume q = .next t := by
  obtain ⟨-, hlt, -⟩ := (Caller.placed_iff_of_some hq).1 (placed_of_inv hs)
  have hm : q.next = some (steps q.op)[q.pos] := List.getElem?_eq_getElem hlt
  simp only [State.resume, hm]
  split
  · exact ⟨_, rfl⟩
  · exact ⟨_, rfl⟩
  next f hf => exact absurd hf (perform_ne_fault (meets_of_inv hs hq hm) f)

end

/-! ### A step completes -/

/-- While steps of the operation are left, a step moves the position to the next of them. -/
theorem Advance.seq_of_steps {i : Instr} (hi : i ≠ .init) {pre ms : List Micro} {m : Micro} {s t : State}
    (hsteps : steps i = pre ++ m :: ms) (h : Advance ⟨i, pre.length⟩ m s t) (hms : ms ≠ []) :
    t.caller.seq = some ⟨i, (pre ++ [m]).length⟩ := by
  have more : m.ends = false := by rwa [Bool.eq_false_iff, Ne, (steps_fits hi hsteps).ends_iff]
  rw [h.seq_of_not_ends more, List.length_append]
  rfl

/-- The rest of an operation, performed as one step, completes or leaves the caller waiting. -/
theorem performAll_next {i : Instr} (hi : i ≠ .init) {xs : List Micro} :
    ∀ {pre : List Micro} {s : State}, steps i = pre ++ xs → Safety.Inv s →
      (xs ≠ [] → s.caller.seq = some ⟨i, pre.length⟩) → ∃ t, s.performAll xs = .next t := by
  induction xs with
  | nil => exact fun _ _ _ => ⟨_, rfl⟩
  | cons m ms ih =>
    intro pre s hsteps hs hq
    have at_m : s.caller.seq = some ⟨i, pre.length⟩ := hq (by simp)
    have next : Seq.next ⟨i, pre.length⟩ = some m := by simp [Seq.next, hsteps]
    cases hp : s.perform m with
    | done u =>
      have adv : Advance ⟨i, pre.length⟩ m s u.advance := ⟨at_m, next, u, performed_of_done hp, rfl⟩
      rw [performAll_of_done hp]
      exact ih (pre := pre ++ [m]) (by simpa using hsteps) (adv.inv hs) (adv.seq_of_steps hi hsteps)
    | wait => exact ⟨s, performAll_of_wait hp ms⟩
    | fault f => exact absurd hp (perform_ne_fault (meets_of_inv hs at_m next) f)

theorem exec_next {s : State} (hs : Safety.Inv s) (hq : s.caller.seq = none) (i : Instr) :
    ∃ t, exec i s = .next t := by
  cases ha : admission i s.life with
  | some r => exact ⟨s.refuse r, by simp only [exec_eq_operate, State.operate, hq, ha]⟩
  | none =>
    obtain ⟨rfl, hl⟩ | ⟨hi, hl⟩ := admission_eq_none ha
    · exact ⟨_, exec_init_of_unbuilt hl hq⟩
    · rw [exec_eq_operate, operate_ready hl hq i hi]
      exact performAll_next hi (pre := []) rfl (inv_accept hi hl hq hs) fun _ => rfl

theorem begin_next (s : State) (i : Instr) : ∃ t, s.begin i = .next t := by
  cases ha : admission i s.life with
  | some r => exact ⟨_, State.begin_of_refused ha⟩
  | none => exact ⟨_, State.begin_of_admitted ha⟩

/-- Serving a caller completes, whatever it has in progress or issued. -/
theorem serve_next {s : State} (hs : Safety.Inv s) : ∃ t, s.serve exec = .next t := by
  cases hq : s.caller.seq with
  | some q => rw [State.serve_of_seq hq]; exact resume_next hs hq
  | none =>
    cases hp : s.caller.port with
    | nil => exact ⟨s, State.serve_of_no_word hq hp⟩
    | cons w rest =>
      cases hd : decode w with
      | error e => exact ⟨_, State.serve_of_illegal hq hp hd⟩
      | ok i =>
        have whole := exec_next (inv_taken rest hs) hq i
        cases ha : s.alone with
        | true => rwa [State.serve_of_alone hq hp hd ha]
        | false =>
          by_cases hi : i = .init
          · subst hi
            rwa [State.serve_of_init hq hp hd]
          · rw [State.serve_of_contended hq hp hd ha hi]
            exact begin_next _ i

/-- Settles O50: nothing moves, or a caller is chosen, which keeps the invariant, and serving it completes. -/
theorem stepNeverStops : Obligations.StepNeverStops := by
  intro s hs
  cases hc : s.choose with
  | none => exact ⟨s, by simp only [step, State.stepWith, hc]⟩
  | some u =>
    rw [step_of_choose hc]
    exact serve_next ((serves_of_choose hc).inv hs)

end Sys2Proof.Machine
end

section
/-! The operations of the Bit-Link Layer (R121 to R126): O19, O20, O21, O22, O23, and where in a bit a sample stands
(R122): O26. -/

namespace Sys2Proof.Machine

/-! ### One byte -/

/-- `SENDBYTE` (R121): the byte's tokens, the clock low, and a completion. -/
theorem exec_sendbyte {s : State} (hs : s.Ready) (byte : Byte) :
    exec (.sendbyte byte) s = .next { s with
      pinClk := some .low
      pinSdo := some (Level.ofBit (byte.getLsbD 0))
      trace := s.trace ++ s.events (sendTokens byte)
      caller := returned s.caller .done } := by
  have ⟨_, hcfg, _⟩ := hs
  exact exec_of_completes hs (by simp) rfl (completes_sendByte (s := s.accept (.sendbyte byte)) hcfg byte)

/-- `RECVBYTE` (R122): the tokens of eight samples, the clock low, and the byte they assemble. -/
theorem exec_recvbyte {s : State} (hs : s.Ready) :
    exec .recvbyte s = .next { s with
      pinClk := some .low
      answers := s.answers.drop 8
      samples := s.samples + 8
      trace := s.trace ++ s.events (recvTokens (s.levels 8))
      caller := { returned s.caller (.byte (s.byteIn 0)) with acc := s.byteIn 0 } } := by
  have ⟨_, hcfg, _⟩ := hs
  exact exec_of_completes hs (by simp) rfl (completes_recvByte (s := s.accept .recvbyte) hcfg)

/-- Settles O19: the word is the encoding of `SENDBYTE`, whose steps are those of one byte sent and the return. -/
theorem sendbyteSendsMsbFirst : Obligations.SendbyteSendsMsbFirst :=
  fun _ byte => ⟨decodeOfEncode (.sendbyte byte) rfl, fun hs => exec_sendbyte hs byte⟩

/-- Settles O20: the word is the encoding of `RECVBYTE`, whose steps are those of one byte received and the return. -/
theorem recvbyteAssemblesMsbFirst : Obligations.RecvbyteAssemblesMsbFirst :=
  fun _ => ⟨decodeOfEncode .recvbyte rfl, exec_recvbyte⟩

/-! ### One frame -/

/-- Settles O21: `WRITEREG` is one write frame whose address byte carries the marker. -/
theorem writeregSendsOneFrame : Obligations.WriteregSendsOneFrame :=
  fun _ addr value => ⟨decodeOfEncode (.writereg addr value) rfl, fun hs => exec_writeFrameSteps hs (by simp) rfl⟩

/-- The marker is already set in an address that has bit 7 set (R81, R125). -/
theorem writeAddress_or_marker (addr : Byte) : writeAddress (0x80 ||| addr) = writeAddress addr := by
  rw [writeAddress, writeAddress, Config.writeMarker, ← BitVec.or_assoc, BitVec.or_self]

/-- Settles O22: both operations are the write frame of one address byte. -/
theorem writeregIgnoresAddressBitSeven : Obligations.WriteregIgnoresAddressBitSeven := by
  intro s addr value hs
  have frame (a : Byte) := exec_writeFrameSteps (i := .writereg a value) hs (by simp) rfl
  rw [frame, frame, writeAddress_or_marker]

/-- Settles O23: `READREGS` is one read frame whose address byte is the operand unchanged. -/
theorem readregsReturnsInRequestOrder : Obligations.ReadregsReturnsInRequestOrder :=
  fun _ _ _ hs => exec_readFrameSteps hs (by simp) rfl

/-! ### Where a sample stands -/

/-- Each sample among the steps comes right after the clock is driven high and right before it is driven low. -/
def Strobed (xs : List Micro) : Prop :=
  ∀ k, xs[k]? = some .sample → 0 < k ∧ xs[k - 1]? = some (.wr .clk .high) ∧ xs[k + 1]? = some (.wr .clk .low)

namespace Strobed

variable {xs ys : List Micro}

/-- Steps without a sample. -/
theorem of_all (h : xs.all (fun m => m != .sample) = true) : Strobed xs := by
  intro k hk
  have hne := List.all_eq_true.1 h _ (List.mem_of_getElem? hk)
  simp at hne

/-- A sample's neighbours lie in the same list as the sample, so joining two lists parts no sample from them. -/
theorem append (hx : Strobed xs) (hy : Strobed ys) : Strobed (xs ++ ys) := by
  intro k hk
  by_cases hlt : k < xs.length
  · rw [List.getElem?_append_left hlt] at hk
    obtain ⟨hpos, hhigh, hlow⟩ := hx k hk
    obtain ⟨hlt', -⟩ := List.getElem?_eq_some_iff.1 hlow
    rw [List.getElem?_append_left (by omega), List.getElem?_append_left hlt']
    exact ⟨hpos, hhigh, hlow⟩
  · rw [List.getElem?_append_right (by omega)] at hk
    obtain ⟨hpos, hhigh, hlow⟩ := hy (k - xs.length) hk
    rw [List.getElem?_append_right (by omega), List.getElem?_append_right (by omega), Nat.sub_right_comm,
      Nat.sub_add_comm (by omega)]
    exact ⟨by omega, hhigh, hlow⟩

theorem flatten_replicate (h : Strobed xs) (n : Nat) : Strobed (List.replicate n xs).flatten := by
  induction n with
  | zero => exact of_all rfl
  | succ n ih => exact h.append ih

end Strobed

/-- One incoming bit samples in its high phase (R122). -/
theorem strobed_recvBit : Strobed recvBit := by
  intro k hk
  match k, hk with
  | 1, _ => exact ⟨Nat.one_pos, rfl, rfl⟩
  | 0, h | 2, h | _ + 3, h => cases h

theorem strobed_recvByte : Strobed recvByte :=
  Strobed.append (xs := [.clearAcc]) (.of_all rfl) (strobed_recvBit.flatten_replicate Config.byteBits)

theorem strobed_recvBytes (n : Nat) : Strobed (recvBytes n) :=
  (strobed_recvByte.append (.of_all rfl)).flatten_replicate n

theorem strobed_readFrameSteps (a : Byte) (n : Nat) : Strobed (readFrameSteps a n) := by
  have sent : Strobed ([.wr .cs .low] ++ sendByte a) := .of_all rfl
  exact (sent.append (strobed_recvBytes n)).append (.of_all rfl)

/-- An acquisition samples in its read frame only. -/
theorem strobed_acquisition : Strobed acquisition := by
  have trigger : Strobed ([.lock] ++ writeFrameSteps (writeAddress 0x00) Config.configTrigger ++ [.delay]) :=
    .of_all rfl
  have read := trigger.append (strobed_readFrameSteps (readAddress 0x00) Config.nregs)
  exact ((read.append (.of_all rfl)).append (.of_all rfl)).append (.of_all rfl)

theorem strobed_steps (i : Instr) : Strobed (steps i) := by
  cases i with
  | init | sendbyte | writereg | writeFrame | close => exact .of_all rfl
  | recvbyte => exact strobed_recvByte.append (.of_all rfl)
  | readregs a n => exact (strobed_readFrameSteps (readAddress a) n.toNat).append (.of_all rfl)
  | readFrame a n => exact (strobed_readFrameSteps a n.toNat).append (.of_all rfl)
  | acquire | tempExact | tempPoly3 | tempPoly4 | tempPoly5 => exact strobed_acquisition.append (.of_all rfl)

/-- Settles O26: only a bit received samples, and it does so between the two edges of its clock pulse. -/
theorem samplesStandInTheHighPhase : Obligations.SamplesStandInTheHighPhase := strobed_steps

end Sys2Proof.Machine
end

section
/-! The decode of the bank: the ADC code (R146, O32) and the status byte (R148, R191, O34). With them the base case of
the readings in range (O59). -/

namespace Sys2Proof.Machine

/-! ### The code -/

/-- Bit 0 of the low byte is the one the shift drops (R87, R146). -/
theorem adcCode_xor_one (msb lsb : Byte) : adcCode msb (lsb ^^^ 1) = adcCode msb lsb := by
  apply BitVec.eq_of_getLsbD_eq
  intro i hi
  simp [adcCode, rtd16]

/-- Settles O32: the code is the pair's half, and it is all the decode takes of the two bytes. -/
theorem codeIsTheShiftedPair : Obligations.CodeIsTheShiftedPair := by
  intro b0 b1 b2 b3 b4 b5 b6 b7
  have hmsb := b1.isLt
  have hlsb := b2.isLt
  refine ⟨adcCode_toNat b1 b2, ?_, rfl, ?_⟩
  · rw [adcCode_toNat]
    omega
  · simp only [decodeBank, adcCode_xor_one]

/-! ### The status -/

/-- The bit of the status byte that a cause's mask selects (R148, R191). -/
def causeBit : FaultCause → Nat
  | .highThresholdOpenCable => 7
  | .lowThresholdShortCable => 6
  | .refinHigh => 5
  | .refinLow => 4
  | .rtdinLow => 3
  | .overUnderVoltage => 2

theorem causeMask_eq_twoPow (c : FaultCause) : causeMask c = BitVec.twoPow 8 (causeBit c) := by
  cases c <;> rfl

theorem mem_causes_iff (s : Byte) (c : FaultCause) : c ∈ causes s ↔ s.getLsbD (causeBit c) = true := by
  have listed : c ∈ [FaultCause.highThresholdOpenCable, .lowThresholdShortCable, .refinHigh, .refinLow, .rtdinLow,
      .overUnderVoltage] := by cases c <;> decide
  have nonzero : BitVec.twoPow 8 (causeBit c) ≠ 0#8 := by cases c <;> decide
  rw [causes, List.mem_filter, and_iff_right listed, causeMask_eq_twoPow, bne_iff_ne, BitVec.and_twoPow]
  cases s.getLsbD (causeBit c)
  · simp
  · simpa using nonzero

/-- Settles O34: each flag is the bit its cause's mask selects, and the test for a good read is on the whole byte. -/
theorem statusFlagsAndGood : Obligations.StatusFlagsAndGood := by
  intro st
  have unnamed (x : Byte) : faultFlags (st ^^^ (x &&& 0x03)) = faultFlags st := by simp [faultFlags]
  have cause (c : FaultCause) := mem_causes_iff st c
  exact ⟨fun _ _ _ _ _ _ _ => ⟨_, rfl⟩, ⟨rfl, rfl, rfl, rfl, rfl, rfl⟩, unnamed,
    ⟨cause _, cause _, cause _, cause _, cause _, cause _⟩, beq_iff_eq⟩

/-- Settles O59: the one caller at reset has done no decode. -/
theorem readingsInRangeAtReset : Obligations.ReadingsInRangeAtReset := by
  have none_held : ∀ c ∈ State.reset.callers, c.reading = none := by decide
  refine ⟨none_held, fun c hc r hr => ?_, rfl⟩
  rw [none_held c hc] at hr
  cases hr

end Sys2Proof.Machine
end

section
/-! The acquisition (R140 to R151): what it leaves and returns (O31), on which samples its reading depends (O36), and
many of them one after another (O35). -/

namespace Sys2Proof.Machine

/-! ### One acquisition -/

/-- An operation that is an acquisition and whose last step then returns `res` (R140, R160). -/
theorem exec_acquisition {s : State} {i : Instr} {r : Micro} {res : Result} (hs : s.Ready) (hl : s.lock = .free)
    (hi : i ≠ .init) (hsteps : steps i = acquisition ++ [r])
    (hr : ∀ t : State, t.caller.reading = some s.readingIn → t.perform r = .done (t.finish res)) :
    exec i s = .next (acquiredState s (returned s.caller res)) := by
  have ⟨_, hcfg, _⟩ := hs
  have good : (if s.byteIn 7 = 0 then s.good + 1 else s.good) = s.good + if s.byteIn 7 = 0 then 1 else 0 := by
    split <;> rfl
  have bad : (if s.byteIn 7 = 0 then s.bad else s.bad + 1) = s.bad + if s.byteIn 7 = 0 then 0 else 1 := by
    split <;> rfl
  rw [exec_of_completes hs hi hsteps (completes_acquisition (s := s.accept i) hcfg hl rfl),
    performAll_of_done (hr _ rfl), acquiredState, good, bad, ← hl]
  rfl

/-- Settles O31: the steps of `ACQUIRE` are those of the acquisition and the return of its reading. -/
theorem acquireReturnsTheReading : Obligations.AcquireReturnsTheReading := by
  intro s hs hl
  refine exec_acquisition hs hl (by simp) rfl fun t ht => ?_
  simp only [State.perform, State.returnReading, ht]
  rfl

/-! ### The bytes received are those of the levels sampled -/

theorem byteFrom_congr {a b : List Level} {m n k : Nat}
    (h : ∀ i < 8, levelFrom a m (8 * k + i) = levelFrom b n (8 * k + i)) : byteFrom a m k = byteFrom b n k := by
  simp only [byteFrom, h, Nat.reduceLT]

theorem byteIn_eq_of_levels {s u : State} {n k : Nat} (h : s.levels (8 * n) = u.levels (8 * n)) (hk : k < n) :
    s.byteIn k = u.byteIn k := by
  refine byteFrom_congr fun i hi => ?_
  exact List.map_inj_left.1 h _ (List.mem_range.2 (by omega))

/-- Settles O36: the reading is made of three of the eight bytes that the 64 levels assemble. -/
theorem readingDependsOnItsSamplesOnly : Obligations.ReadingDependsOnItsSamplesOnly := by
  intro s u hs hu hsl hul h
  have same (k : Nat) (hk : k < 8) : s.byteIn k = u.byteIn k := byteIn_eq_of_levels (n := 8) h hk
  refine ⟨_, _, _, acquireReturnsTheReading s hs hsl, acquireReturnsTheReading u hu hul, rfl, ?_⟩
  rw [same 1 (by omega), same 2 (by omega), same 7 (by omega)]
  rfl

/-! ### Acquisitions one after another -/

theorem acquireTimes_succ {s t : State} (h : exec .acquire s = .next t) (n : Nat) :
    acquireTimes (n + 1) s = acquireTimes n t := by
  simp only [acquireTimes, h]

section

variable (s : State) (c : Caller)

theorem good_acquiredState : (acquiredState s c).good = s.good + if s.byteIn 7 = 0 then 1 else 0 := by
  rw [acquiredState]
  split <;> rfl

theorem good_add_bad_acquiredState : (acquiredState s c).good + (acquiredState s c).bad = s.good + s.bad + 1 := by
  rw [acquiredState]
  dsimp only
  split <;> omega

theorem tokens_acquiredState : (acquiredState s c).tokens = s.tokens ++ acquisitionTokens (s.levels 64) := by
  rw [State.tokens, acquiredState, List.map_append, State.map_token_events, State.tokens]

/-- The status byte of the `k`-th acquisition after the first. -/
theorem byteIn_acquiredState (k : Nat) : (acquiredState s c).byteIn (8 * k + 7) = s.byteIn (8 * (k + 1) + 7) := by
  rw [show 8 * (k + 1) + 7 = 8 + (8 * k + 7) by omega]
  exact byteFrom_drop s.answers s.samples 8 (8 * k + 7)

/-- The levels of the `k`-th acquisition after the first. -/
theorem drop_levels_acquiredState (k : Nat) :
    ((acquiredState s c).levels (64 * (k + 1))).drop (64 * k) = (s.levels (64 * (k + 1 + 1))).drop (64 * (k + 1)) := by
  have later : s.levels (64 + 64 * (k + 1)) = s.levels 64 ++ (acquiredState s c).levels (64 * (k + 1)) :=
    levelsFrom_add s.answers s.samples 64 _
  have length : (s.levels 64).length = 64 := by simp [State.levels, levelsFrom]
  rw [show 64 * (k + 1 + 1) = 64 + 64 * (k + 1) by omega, later, Nat.mul_succ 64 k, Nat.add_comm (64 * k) 64,
    ← List.drop_drop, List.drop_left' length]

end

/-- Settles O35: the first acquisition leaves a state from which the others count and sample on. -/
theorem countersAfterManyAcquisitions : Obligations.CountersAfterManyAcquisitions := by
  intro n
  induction n with
  | zero =>
    intro s _ _
    exact ⟨s, rfl, rfl, rfl, (List.append_nil _).symm⟩
  | succ n ih =>
    intro s hs hl
    obtain ⟨c, hc, first⟩ : ∃ c : Caller, c.seq = none ∧ exec .acquire s = .next (acquiredState s c) :=
      ⟨_, rfl, acquireReturnsTheReading s hs hl⟩
    have ⟨hlife, hcfg, _⟩ := hs
    obtain ⟨t, ht, hgood, hsum, htokens⟩ := ih (acquiredState s c) ⟨hlife, hcfg, hc⟩ rfl
    refine ⟨t, (acquireTimes_succ first n).trans ht, ?_, ?_, ?_⟩
    · simp only [hgood, good_acquiredState, byteIn_acquiredState, List.range_succ_eq_map, List.countP_cons,
        List.countP_map, beq_iff_eq, Function.comp_def, Nat.succ_eq_add_one, Nat.mul_zero, Nat.zero_add]
      omega
    · rw [hsum, good_add_bad_acquiredState]
      omega
    · simp only [htokens, tokens_acquiredState, drop_levels_acquiredState, List.range_succ_eq_map, List.map_cons,
        List.map_map, Function.comp_def, Nat.succ_eq_add_one, List.flatten_cons, List.append_assoc, Nat.zero_add,
        Nat.mul_one, Nat.mul_zero, List.drop_zero]

end Sys2Proof.Machine
end

section
/-! The resistance of a code in binary64 (R147, decision D4): no operation of it rounds. O33. -/

namespace Sys2Proof.Machine

/-- The datum is `m·2^e` units of 2^-1074: finite and not negative. -/
structure Binary64.IsUnits (x : Binary64) (m e : Nat) : Prop where
  finite : Binary64.isFinite x = true
  sign : Binary64.sign x = false
  units : Binary64.units x = m * 2 ^ e

theorem Binary64.excess_le {m e : Nat} (hm : m < 2 ^ 53) : Binary64.excess (m * 2 ^ e) ≤ e := by
  have hlog : (m * 2 ^ e).log2 < 53 + e := by
    obtain h0 | h0 := eq_or_ne (m * 2 ^ e) 0
    · rw [h0, Nat.log2_zero]
      omega
    · rw [Nat.log2_lt h0, Nat.pow_add]
      exact Nat.mul_lt_mul_of_pos_right hm (Nat.two_pow_pos e)
  rw [Binary64.excess]
  omega

/-- A quotient that is a whole number of units of at most 53 significant digits is not rounded. -/
theorem Binary64.roundQuot_of_dvd {num den m e : Nat} (hnum : num = m * 2 ^ e * den) (hden : 0 < den)
    (hm : m < 2 ^ 53) : Binary64.roundQuot num den =
      Binary64.assemble (Binary64.excess (m * 2 ^ e)) (m * 2 ^ e / 2 ^ Binary64.excess (m * 2 ^ e)) := by
  have hdvd : 2 ^ Binary64.excess (m * 2 ^ e) ∣ m * 2 ^ e := (Nat.pow_dvd_pow 2 (Binary64.excess_le hm)).mul_left m
  rw [Binary64.roundQuot, hnum, Nat.mul_div_cancel _ hden, Nat.shiftLeft_eq, Nat.mul_comm den]
  generalize Binary64.excess (m * 2 ^ e) = k at *
  have hpos : 0 < 2 ^ k * den := Nat.mul_pos (Nat.two_pow_pos k) hden
  rw [Nat.mod_eq_zero_of_dvd (Nat.mul_dvd_mul_right hdvd den), Nat.mul_div_mul_right _ _ hden, if_neg (by omega)]

/-- Such a quotient is packed as it is. -/
theorem Binary64.isUnits_pack_roundQuot {num den m e : Nat} (hnum : num = m * 2 ^ e * den) (hden : 0 < den)
    (hm : m < 2 ^ 53) (he : e < 2000) : Binary64.IsUnits (Binary64.pack false (Binary64.roundQuot num den)) m e := by
  rw [Binary64.roundQuot_of_dvd hnum hden hm]
  obtain ⟨hnormal, hsmall⟩ := Binary64.excess_spec (m * 2 ^ e)
  have hk := Binary64.excess_le (e := e) hm
  have hexact := Nat.div_mul_cancel ((Nat.pow_dvd_pow 2 hk).mul_left m)
  generalize Binary64.excess (m * 2 ^ e) = k at *
  generalize m * 2 ^ e / 2 ^ k = f at *
  have hfin : Binary64.isFinite (Binary64.pack false (Binary64.assemble k f)) = true := by
    rw [Binary64.isFinite_pack_assemble, Binary64.infMagnitude]
    omega
  exact ⟨hfin, Binary64.sign_pack (Binary64.assemble_lt k f),
    (Binary64.units_of_magnitude (Binary64.magnitude_pack_assemble hfin) hsmall.le hnormal).trans hexact⟩

/-- An integer of at most 53 binary digits is a datum. -/
theorem Binary64.isUnits_ofRat {n : Nat} (hn : n < 2 ^ 53) : Binary64.IsUnits (Binary64.ofRat false n 1) n 1074 := by
  have scale (u : Nat) : n <<< u = n * 2 ^ u * 1 := by rw [Nat.shiftLeft_eq, Nat.mul_one]
  exact Binary64.isUnits_pack_roundQuot (scale 1074) Nat.one_pos hn (by omega)

/-- The product with an integer is exact where it has at most 53 significant digits. -/
theorem Binary64.IsUnits.mul {x y : Binary64} {m n e : Nat} (hx : Binary64.IsUnits x m e)
    (hy : Binary64.IsUnits y n 1074) (h : m * n < 2 ^ 53) (he : e < 2000) :
    Binary64.IsUnits (Binary64.mul x y) (m * n) e := by
  have scale (u : Nat) : m * 2 ^ e * (n * 2 ^ u) = m * n * 2 ^ e * (1 <<< u) := by
    rw [Nat.one_shiftLeft]
    ring
  rw [Binary64.mul_of_isFinite hx.finite hy.finite, hx.sign, hy.sign, hx.units, hy.units]
  exact Binary64.isUnits_pack_roundQuot (scale 1074) (one_shiftLeft_pos _) h he

/-- The quotient by a power of two is exact where it is a whole number of units. -/
theorem Binary64.IsUnits.div {x y : Binary64} {m d e j : Nat} (hx : Binary64.IsUnits x m d)
    (hy : Binary64.IsUnits y (2 ^ j) 1074) (hd : d = e + j) (h : m < 2 ^ 53) (he : e < 2000) :
    Binary64.IsUnits (Binary64.div x y) m e := by
  have pos (u : Nat) : 0 < 2 ^ j * 2 ^ u := Nat.mul_pos (Nat.two_pow_pos j) (Nat.two_pow_pos u)
  have scale (u : Nat) : (m * 2 ^ d) <<< u = m * 2 ^ e * (2 ^ j * 2 ^ u) := by
    rw [Nat.shiftLeft_eq, hd]
    ring
  have hmag : Binary64.magnitude y ≠ 0 := by
    rw [Ne, ← Binary64.units_eq_zero_iff, hy.units]
    exact (pos 1074).ne'
  rw [Binary64.div_of_isFinite hx.finite hy.finite hmag, hx.sign, hy.sign, hx.units, hy.units]
  exact Binary64.isUnits_pack_roundQuot (scale 1074) (pos 1074) h he

theorem Binary64.IsUnits.value {x : Binary64} {m e j : Nat} (h : Binary64.IsUnits x m e) (he : e + j = 1074) :
    Binary64.value x = m / 2 ^ j := by
  have hpos : (2 : ℚ) ^ e ≠ 0 := by positivity
  rw [Binary64.value, Binary64.signedUnits, h.sign, if_neg Bool.false_ne_true, h.units, ← he, pow_add,
    Int.cast_natCast, Nat.cast_mul, Nat.cast_pow, Nat.cast_ofNat, mul_comm, mul_div_mul_left _ _ hpos]

theorem resistanceOf_float (code : Nat) : resistanceOf float code =
    Binary64.div (Binary64.mul (Binary64.ofRat false code 1) (Binary64.ofRat false 430 1))
      (Binary64.ofRat false 32768 1) := by
  simp only [resistanceOf, float, Numerics.real, Numerics.lit, Config.rref, Config.adcFs]

/-- `code·430/2^15` is `code·430·2^1059` units (R147). -/
theorem isUnits_resistanceOf {code : Nat} (h : code < 32768) :
    Binary64.IsUnits (resistanceOf float code) (code * 430) 1059 := by
  have real_code : Binary64.IsUnits (Binary64.ofRat false code 1) code 1074 := Binary64.isUnits_ofRat (by omega)
  have rref : Binary64.IsUnits (Binary64.ofRat false 430 1) 430 1074 := Binary64.isUnits_ofRat (by decide)
  have adcFs : Binary64.IsUnits (Binary64.ofRat false 32768 1) (2 ^ 15) 1074 := Binary64.isUnits_ofRat (by decide)
  rw [resistanceOf_float]
  exact (real_code.mul rref (by omega) (by decide)).div adcFs rfl (by omega) (by decide)

/-- Settles O33: the product by 430 and the quotient by 2^15 are exact, so the value is that of the formula. -/
theorem resistanceIsExact : Obligations.ResistanceIsExact := by
  intro code h
  have exact_units := isUnits_resistanceOf h
  refine ⟨exact_units.finite, exact_units.sign, ?_⟩
  rw [exact_units.value (j := 15) rfl]
  push_cast
  ring

end Sys2Proof.Machine
end

section
/-! Rounding within bounds: an operation whose exact result is not large does not overflow, and a datum that bounds the
exact result bounds the rounded one (R13, decision D4). -/

namespace Sys2Proof.Machine

/-! ### Negation -/

theorem Binary64.magnitude_neg (x : Binary64) : Binary64.magnitude (Binary64.neg x) = Binary64.magnitude x := by
  have cleared : ((1 : BitVec 64) <<< 63).toNat % 2 ^ 63 = 0 := by decide
  rw [Binary64.magnitude, Binary64.magnitude, Binary64.neg, Nat.one_shiftLeft, BitVec.toNat_xor, Nat.xor_mod_two_pow,
    cleared, Nat.xor_zero]

theorem Binary64.sign_neg (x : Binary64) : Binary64.sign (Binary64.neg x) = !Binary64.sign x := by
  simp [Binary64.sign, Binary64.neg]

theorem Binary64.isFinite_neg (x : Binary64) : Binary64.isFinite (Binary64.neg x) = Binary64.isFinite x := by
  rw [Binary64.isFinite, Binary64.isFinite, Binary64.magnitude_neg]

theorem Binary64.units_neg (x : Binary64) : Binary64.units (Binary64.neg x) = Binary64.units x := by
  simp only [Binary64.units, Binary64.exponent, Binary64.fraction_eq, Binary64.magnitude_neg]

theorem Binary64.value_neg (x : Binary64) : Binary64.value (Binary64.neg x) = -Binary64.value x := by
  rw [Binary64.value, Binary64.value, Binary64.signedUnits, Binary64.signedUnits, Binary64.sign_neg, Binary64.units_neg]
  cases Binary64.sign x <;> simp [neg_div]

/-! ### No overflow -/

/-- A quotient below 2^2097 units, that is 2^1023, is rounded to a finite datum: its exponent is not the greatest. -/
theorem Binary64.isFinite_pack_roundQuot (b : Bool) {num den e : Nat} (hden : 0 < den)
    (h : (num : ℝ) / den < 2 ^ e) (he : e ≤ 2097) :
    Binary64.isFinite (Binary64.pack b (Binary64.roundQuot num den)) = true := by
  obtain ⟨k, f, g, hround, hrounds⟩ := Binary64.roundQuot_roundsTo num hden
  obtain ⟨-, hgf⟩ := hrounds.le
  have hsmall := hrounds.small
  have hk : k = 0 ∨ 52 + k < e := by
    refine hrounds.normal.imp_right fun hf => ?_
    have hlt : f * 2 ^ k < 2 ^ e := by exact_mod_cast hrounds.lower.trans_lt h
    rw [← Nat.pow_lt_pow_iff_right (a := 2) (by omega), Nat.pow_add]
    exact (Nat.mul_le_mul_right _ hf).trans_lt hlt
  rw [hround, Binary64.isFinite_pack_assemble, Binary64.infMagnitude]
  omega

theorem Binary64.abs_value (x : Binary64) : |(Binary64.value x : ℝ)| = Binary64.units x / 2 ^ 1074 := by
  rw [Binary64.value_eq, abs_div, abs_of_pos (by positivity : (0 : ℝ) < 2 ^ 1074)]
  cases Binary64.sign x <;> simp

/-- A finite datum nearest to `q`: what an operation of exact result `q` gives where it does not overflow. -/
structure Binary64.Rounds (r : Binary64) (q : ℝ) : Prop where
  finite : Binary64.isFinite r = true
  nearest : NearestEven r q

section

variable {x y : Binary64} {j : Nat} (hx : Binary64.isFinite x = true) (hy : Binary64.isFinite y = true)
  (hj : j ≤ 1023)
include hx hy hj

theorem Binary64.rounds_mul (h : |(Binary64.value x : ℝ) * Binary64.value y| < 2 ^ j) :
    Binary64.Rounds (Binary64.mul x y) ((Binary64.value x : ℝ) * Binary64.value y) := by
  have hfin : Binary64.isFinite (Binary64.mul x y) = true := by
    rw [Binary64.mul_of_isFinite hx hy]
    refine Binary64.isFinite_pack_roundQuot _ (e := j + 1074) (one_shiftLeft_pos _) ?_ (by omega)
    rw [abs_mul, Binary64.abs_value, Binary64.abs_value, div_mul_div_comm, ← div_div, div_lt_iff₀ (by positivity)] at h
    rwa [pow_add, Nat.cast_mul, cast_shiftLeft, Nat.cast_one, one_mul]
  exact ⟨hfin, nearestEven_mul hx hy hfin⟩

theorem Binary64.rounds_add (h : |(Binary64.value x : ℝ) + Binary64.value y| < 2 ^ j) :
    Binary64.Rounds (Binary64.add x y) ((Binary64.value x : ℝ) + Binary64.value y) := by
  have hfin : Binary64.isFinite (Binary64.add x y) = true := by
    rw [Binary64.add_of_isFinite hx hy]
    split
    · rw [Binary64.isFinite_iff, Binary64.magnitude_pack (by decide)]
      decide
    · refine Binary64.isFinite_pack_roundQuot _ (e := j + 1074) Nat.one_pos ?_ (by omega)
      rw [Binary64.value_eq_signedUnits, Binary64.value_eq_signedUnits, ← add_div, abs_div,
        abs_of_pos (by positivity : (0 : ℝ) < 2 ^ 1074), div_lt_iff₀ (by positivity), ← pow_add] at h
      rw [Nat.cast_natAbs, Nat.cast_one, div_one]
      exact_mod_cast h
  exact ⟨hfin, nearestEven_add hx hy hfin⟩

theorem Binary64.rounds_sub (h : |(Binary64.value x : ℝ) - Binary64.value y| < 2 ^ j) :
    Binary64.Rounds (Binary64.sub x y) ((Binary64.value x : ℝ) - Binary64.value y) := by
  have hneg : ((Binary64.value (Binary64.neg y) : ℚ) : ℝ) = -Binary64.value y := by
    rw [Binary64.value_neg, Rat.cast_neg]
  rw [sub_eq_add_neg, ← hneg] at h ⊢
  exact Binary64.rounds_add hx (Binary64.isFinite_neg y ▸ hy) hj h

end

/-! ### Data as bounds -/

section

variable {r z : Binary64} {q : ℝ} (h : Binary64.Rounds r q) (hz : Binary64.isFinite z = true)
include h hz

theorem Binary64.Rounds.value_le (hq : q ≤ Binary64.value z) : (Binary64.value r : ℝ) ≤ Binary64.value z := by
  obtain ⟨near, -⟩ := h.nearest z hz
  rw [abs_of_nonneg (sub_nonneg.2 hq)] at near
  linarith [le_abs_self ((Binary64.value r : ℝ) - q)]

theorem Binary64.Rounds.le_value (hq : Binary64.value z ≤ q) : (Binary64.value z : ℝ) ≤ Binary64.value r := by
  obtain ⟨near, -⟩ := h.nearest z hz
  rw [abs_of_nonpos (sub_nonpos.2 hq)] at near
  linarith [neg_abs_le ((Binary64.value r : ℝ) - q)]

end

theorem Binary64.isFinite_real {n : Nat} (hn : n < 2 ^ 53) : Binary64.isFinite (float.real n) = true :=
  (Binary64.isUnits_ofRat hn).finite

theorem Binary64.value_real {n : Nat} (hn : n < 2 ^ 53) : (Binary64.value (float.real n) : ℝ) = n := by
  have exact_value := (Binary64.isUnits_ofRat hn).value (j := 0) rfl
  rw [pow_zero, div_one] at exact_value
  exact_mod_cast congrArg (Rat.cast : ℚ → ℝ) exact_value

section

variable {r : Binary64} {q : ℝ} {n : Nat} (h : Binary64.Rounds r q) (hn : n < 2 ^ 53)
include h hn

theorem Binary64.Rounds.value_le_natCast (hq : q ≤ n) : (Binary64.value r : ℝ) ≤ n := by
  rw [← Binary64.value_real hn] at hq ⊢
  exact h.value_le (Binary64.isFinite_real hn) hq

theorem Binary64.Rounds.neg_natCast_le_value (hq : -n ≤ q) : -(n : ℝ) ≤ Binary64.value r := by
  have opposite : -(n : ℝ) = Binary64.value (Binary64.neg (float.real n)) := by
    rw [Binary64.value_neg, Rat.cast_neg, Binary64.value_real hn]
  rw [opposite] at hq ⊢
  exact h.le_value ((Binary64.isFinite_neg _).trans (Binary64.isFinite_real hn)) hq

end

theorem Binary64.lt_eq_false {x y : Binary64} (h : (Binary64.value y : ℝ) ≤ Binary64.value x) :
    Binary64.lt x y = false := by
  rw [Binary64.value_eq_signedUnits, Binary64.value_eq_signedUnits, div_le_div_iff_of_pos_right (by positivity),
    Int.cast_le] at h
  simp [Binary64.lt, h]

end Sys2Proof.Machine
end

section
/-! The exact inverse in binary64 has a value at every resistance that an acquisition can give (R164, decision D4):
O42. -/

namespace Sys2Proof.Machine

/-! ### The constants of the discriminant (R163) -/

theorem isFinite_cvdD1 : Binary64.isFinite (cvdD1 float) = true := by decide +kernel

theorem cvdD1_bounds : (15 : ℝ) ≤ 100 * Binary64.value (cvdD1 float) ∧ (Binary64.value (cvdD1 float) : ℝ) ≤ 1 := by
  have rational : 15 ≤ 100 * Binary64.value (cvdD1 float) ∧ Binary64.value (cvdD1 float) ≤ 1 := by decide +kernel
  exact_mod_cast rational

/-- The factor `4*b*R0` of `d2`, rounded at both products. -/
def cvdD2Factor : Binary64 := float.mul (float.mul (float.real 4) (float.lit Config.cvdB)) (float.lit Config.r0)

theorem isFinite_cvdD2Factor : Binary64.isFinite cvdD2Factor = true := by decide +kernel

theorem cvdD2Factor_bounds :
    (-4 : ℝ) ≤ 10000 * Binary64.value cvdD2Factor ∧ (Binary64.value cvdD2Factor : ℝ) ≤ 0 := by
  have rational : -4 ≤ 10000 * Binary64.value cvdD2Factor ∧ Binary64.value cvdD2Factor ≤ 0 := by decide +kernel
  exact_mod_cast rational

theorem cvdD2_float (R : Binary64) :
    cvdD2 float R = Binary64.mul cvdD2Factor (Binary64.sub (float.real 100) R) := by
  simp only [cvdD2, cvdD2Factor, float, Numerics.lit, Numerics.real, Config.r0]

theorem cvdDisc_float (R : Binary64) : cvdDisc float R = Binary64.sub (cvdD1 float) (cvdD2 float R) := by
  simp only [cvdDisc, float]

theorem float_lt (x y : Binary64) : float.lt x y = Binary64.lt x y := rfl

/-! ### The discriminant -/

/-- The exact product of the factor and a difference `R0 - R`: at most `0.0004*330`. -/
theorem factor_mul_bounds {c x : ℝ} (hc : -4 ≤ 10000 * c) (hc0 : c ≤ 0) (hx : -330 ≤ x) (hx100 : x ≤ 100) :
    -1 ≤ c * x ∧ 100 * (c * x) ≤ 15 := by
  constructor <;> nlinarith

section

variable {R : Binary64} (hR : Binary64.isFinite R = true) (h0 : (0 : ℝ) ≤ Binary64.value R)
  (h430 : (Binary64.value R : ℝ) ≤ 430)
include hR h0 h430

theorem rounds_hundred_sub : Binary64.Rounds (Binary64.sub (float.real 100) R) (100 - Binary64.value R) := by
  have val100 : (Binary64.value (float.real 100) : ℝ) = 100 := Binary64.value_real (by decide)
  have small : |(Binary64.value (float.real 100) : ℝ) - Binary64.value R| < 2 ^ 9 := by
    rw [val100, abs_lt]
    constructor <;> norm_num <;> linarith
  rw [← val100]
  exact Binary64.rounds_sub (Binary64.isFinite_real (by decide)) hR (by decide) small

theorem hundred_sub_bounds : (-330 : ℝ) ≤ Binary64.value (Binary64.sub (float.real 100) R) ∧
    (Binary64.value (Binary64.sub (float.real 100) R) : ℝ) ≤ 100 := by
  have diff := rounds_hundred_sub hR h0 h430
  have lower := diff.neg_natCast_le_value (n := 330) (by decide) (by push_cast; linarith)
  have upper := diff.value_le_natCast (n := 100) (by decide) (by push_cast; linarith)
  exact ⟨by exact_mod_cast lower, by exact_mod_cast upper⟩

/-- `d2` does not exceed `d1`, which is a datum and at least `0.15`. -/
theorem cvdD2_bounds : Binary64.isFinite (cvdD2 float R) = true ∧ -1 ≤ (Binary64.value (cvdD2 float R) : ℝ) ∧
    (Binary64.value (cvdD2 float R) : ℝ) ≤ Binary64.value (cvdD1 float) := by
  have diff := rounds_hundred_sub hR h0 h430
  obtain ⟨diff_lower, diff_upper⟩ := hundred_sub_bounds hR h0 h430
  obtain ⟨factor_lower, factor_upper⟩ := cvdD2Factor_bounds
  obtain ⟨d1_lower, -⟩ := cvdD1_bounds
  obtain ⟨lower, upper⟩ := factor_mul_bounds factor_lower factor_upper diff_lower diff_upper
  have d2 := Binary64.rounds_mul (j := 1) isFinite_cvdD2Factor diff.finite (by decide)
    (abs_lt.2 ⟨by linarith, by linarith⟩)
  rw [← cvdD2_float] at d2
  refine ⟨d2.finite, ?_, d2.value_le isFinite_cvdD1 (by linarith)⟩
  exact_mod_cast d2.neg_natCast_le_value (n := 1) (by decide) (by exact_mod_cast lower)

/-- For `0 ≤ R ≤ 430` the discriminant, rounded at every operation, is not negative. -/
theorem value_cvdDisc_nonneg : (0 : ℝ) ≤ Binary64.value (cvdDisc float R) := by
  obtain ⟨d2_finite, d2_lower, d2_upper⟩ := cvdD2_bounds hR h0 h430
  obtain ⟨d1_lower, d1_upper⟩ := cvdD1_bounds
  have disc := Binary64.rounds_sub (j := 2) isFinite_cvdD1 d2_finite (by decide)
    (abs_lt.2 ⟨by linarith, by linarith⟩)
  rw [cvdDisc_float]
  simpa using disc.neg_natCast_le_value (n := 0) (by decide) (by simpa using d2_upper)

theorem isSome_tExact_float : (tExact float R).isSome = true := by
  have zero : (Binary64.value (float.real 0) : ℝ) = 0 := by rw [Binary64.value_real (by decide), Nat.cast_zero]
  have inside : Binary64.lt (cvdDisc float R) (float.real 0) = false :=
    Binary64.lt_eq_false (zero.trans_le (value_cvdDisc_nonneg hR h0 h430))
  rw [tExact, float_lt, if_neg (Bool.eq_false_iff.1 inside), Option.isSome_some]

end

/-- Settles O42: the resistance of a code is exact and lies between 0 and 430. -/
theorem noDomainFaultFromAnAcquisition : Obligations.NoDomainFaultFromAnAcquisition := by
  intro code hcode
  obtain ⟨hfinite, -, hvalue⟩ := resistanceIsExact code hcode
  have cast_value : (Binary64.value (resistanceOf float code) : ℝ) = (code : ℝ) * 215 / 16384 := by
    rw [hvalue]
    push_cast
    rfl
  have hle : (code : ℝ) ≤ 32767 := by exact_mod_cast Nat.le_of_lt_succ hcode
  refine isSome_tExact_float hfinite ?_ ?_ <;> rw [cast_value]
  · positivity
  · linarith

/-! ### The four conversions (R160) -/

theorem conv_exact (R : Binary64) : conv .exact R = tExact float R := by rw [conv]

theorem conv_poly3 (R : Binary64) : conv .poly3 R = some (horner float 3 Config.poly3C R) := by rw [conv]

theorem conv_poly4 (R : Binary64) : conv .poly4 R = some (horner float 4 Config.poly4C R) := by rw [conv]

theorem conv_poly5 (R : Binary64) : conv .poly5 R = some (horner float 5 Config.poly5C R) := by rw [conv]

/-- Every strategy has a value at a resistance that came from a code. -/
theorem isSome_conv {code : Nat} (hcode : code < 32768) (k : Strategy) :
    (conv k (resistanceOf float code)).isSome = true := by
  cases k with
  | exact =>
    rw [conv_exact]
    exact noDomainFaultFromAnAcquisition code hcode
  | poly3 | poly4 | poly5 => simp only [conv, Option.isSome_some]

end Sys2Proof.Machine
end

section
/-! While every resistance a caller holds came from a code, no step records a `DomainFault` (R147, R164): O60. -/

namespace Sys2Proof.Machine

/-- The resistance the caller holds, if it holds one, came from a code (R147). -/
def Caller.codedReading (c : Caller) : Prop :=
  ∀ r, c.reading = some r → ∃ code < 32768, r.ohms = resistanceOf float code

/-- What every step keeps: the callers' resistances came from codes, and no `DomainFault` is recorded. -/
def State.coded (s : State) : Prop := (∀ c ∈ s.callers, c.codedReading) ∧ s.domainFault = false

theorem Caller.codedReading_of_none {c : Caller} (h : c.reading = none) : c.codedReading := by
  intro r hr
  rw [h] at hr
  cases hr

theorem coded_of_caller {s t : State} (hs : s.coded) (ho : t.others = s.others) (hc : t.caller.codedReading)
    (hd : t.domainFault = false) : t.coded := by
  obtain ⟨hcallers, -⟩ := hs
  refine ⟨List.forall_mem_cons.2 ⟨hc, ?_⟩, hd⟩
  rw [ho]
  exact (List.forall_mem_cons.1 hcallers).2

theorem State.coded.caller {s : State} (hs : s.coded) : s.caller.codedReading := by
  obtain ⟨hcallers, -⟩ := hs
  exact hcallers _ List.mem_cons_self

theorem Serves.coded {s u : State} (h : Serves s u) (hs : s.coded) : u.coded := by
  obtain ⟨hcallers, hfault⟩ := hs
  refine ⟨fun c hc => hcallers c (h.perm.mem_iff.1 hc), ?_⟩
  rw [← h.rest]
  exact hfault

/-! ### One step of an operation -/

theorem coded_of_decodeBank {bank : List Byte} {r : Reading} (h : decodeBank bank = some r) :
    ∃ code < 32768, r.ohms = resistanceOf float code := by
  unfold decodeBank at h
  split at h
  next _ msb lsb _ _ _ _ _ =>
    obtain rfl := Option.some.inj h
    obtain ⟨-, in_range, -⟩ := codeIsTheShiftedPair 0 msb lsb 0 0 0 0 0
    exact ⟨(adcCode msb lsb).toNat, in_range, by dsimp only⟩
  next => cases h

namespace Performed

variable {s t : State} {m : Micro}

/-- Only the decode gives a reading that was not there. -/
theorem reading (h : Performed s m t) :
    t.caller.reading = none ∨ t.caller.reading = s.caller.reading ∨ t.caller.reading = decodeBank s.caller.bank := by
  cases h with
  | decode r hr => exact .inr (.inr hr.symm)
  | _ => simp

theorem codedReading (h : Performed s m t) (hc : s.caller.codedReading) : t.caller.codedReading := by
  intro r hr
  obtain hnone | hsame | hdecode := h.reading
  · rw [hnone] at hr
    cases hr
  · exact hc r (hsame.symm.trans hr)
  · exact coded_of_decodeBank (hdecode.symm.trans hr)

/-- Only a conversion can record a `DomainFault`, and it has a value at a resistance that came from a code. -/
theorem domainFault (h : Performed s m t) (hc : s.caller.codedReading) : t.domainFault = s.domainFault := by
  cases h with
  | returnTemperature k r hr =>
    obtain ⟨code, hcode, hohms⟩ := hc r hr
    have has_value := isSome_conv hcode k
    rw [← hohms] at has_value
    simp [Option.isNone_eq_false_iff.2 has_value]
  | _ => simp

end Performed

theorem Advances.coded {s t : State} (h : Advances s t) (hs : s.coded) : t.coded := by
  obtain ⟨q, m, -, -, u, hu, rfl⟩ := h
  obtain ⟨-, hfault⟩ := id hs
  exact coded_of_caller hs hu.others (hu.codedReading hs.caller) ((hu.domainFault hs.caller).trans hfault)

/-- Settles O60: the decode is the only step that gives a caller a resistance, and only a conversion records a
`DomainFault`. -/
theorem noStepRecordsADomainFault : Obligations.NoStepRecordsADomainFault := by
  intro s t hcoded hfault h
  refine step_keeps (P := State.coded) (fun u hu => hu.coded) (fun u rest hu => ?taken) (fun u r hu => hu)
    (fun u _ hu => ?constructed) (fun u i _ _ _ hu => ?accepted) (fun u v hv => hv.coded) h ⟨hcoded, hfault⟩
  case taken => exact coded_of_caller hu rfl hu.caller hu.2
  case constructed => exact coded_of_caller hu rfl (Caller.codedReading_of_none rfl) hu.2
  case accepted => exact coded_of_caller hu rfl (Caller.codedReading_of_none rfl) hu.2

end Sys2Proof.Machine
end

section
/-! The temperature operations: an acquisition, and the conversion of its reading (R160 to R168): O37, O38, O39, O40,
O41. -/

namespace Sys2Proof.Machine

/-- Where the conversion has a value, the last step of a `TEMP_*` returns it with the status unchanged. -/
theorem perform_returnTemperature {t : State} {r : Reading} {T : Binary64} {k : Strategy}
    (hr : t.caller.reading = some r) (hT : conv k r.ohms = some T) :
    t.perform (.returnTemperature k) = .done (t.finish (.temperature T r.status)) := by
  simp [State.perform, State.returnTemperature, State.finish, hr, hT]

theorem steps_temp (k : Strategy) : steps (Instr.temp k) = acquisition ++ [.returnTemperature k] := by
  cases k <;> rfl

theorem State.readingIn_ohms (s : State) :
    s.readingIn.ohms = resistanceOf float (((s.byteIn 1).toNat * 256 + (s.byteIn 2).toNat) / 2) := by
  rw [State.readingIn]

theorem State.codeIn_lt (s : State) : ((s.byteIn 1).toNat * 256 + (s.byteIn 2).toNat) / 2 < 32768 := by
  have msb := (s.byteIn 1).isLt
  have lsb := (s.byteIn 2).isLt
  omega

/-- Every `TEMP_*` leaves what its acquisition leaves, and returns its conversion of the resistance. -/
theorem exec_temp {s : State} {T : Binary64} (k : Strategy) (hs : s.Ready) (hl : s.lock = .free)
    (hT : conv k (resistanceOf float (((s.byteIn 1).toNat * 256 + (s.byteIn 2).toNat) / 2)) = some T) :
    exec (Instr.temp k) s = .next (acquiredState s (returned s.caller (.temperature T (s.byteIn 7)))) := by
  have other : Instr.temp k ≠ .init := by cases k <;> simp [Instr.temp]
  rw [← State.readingIn_ohms] at hT
  exact exec_acquisition hs hl other (steps_temp k) fun _ ht => perform_returnTemperature ht hT

/-- Settles O37: the exact inverse has a value, since the resistance came from a code. -/
theorem tempExactReturnsTheInverse : Obligations.TempExactReturnsTheInverse := by
  intro s hs hl
  obtain ⟨T, hT⟩ := Option.isSome_iff_exists.1 (isSome_conv s.codeIn_lt .exact)
  exact ⟨T, (conv_exact _).symm.trans hT, exec_temp .exact hs hl hT⟩

/-- Settles O38: the conversion of `TEMP_POLY3` is Horner evaluation. -/
theorem tempPoly3ReturnsHorner : Obligations.TempPoly3ReturnsHorner :=
  fun _ hs hl => exec_temp .poly3 hs hl (conv_poly3 _)

/-- Settles O39: the conversion of `TEMP_POLY4` is Horner evaluation. -/
theorem tempPoly4ReturnsHorner : Obligations.TempPoly4ReturnsHorner :=
  fun _ hs hl => exec_temp .poly4 hs hl (conv_poly4 _)

/-- Settles O40: the conversion of `TEMP_POLY5` is Horner evaluation. -/
theorem tempPoly5ReturnsHorner : Obligations.TempPoly5ReturnsHorner :=
  fun _ hs hl => exec_temp .poly5 hs hl (conv_poly5 _)

/-- Settles O41: the states after the two operations differ in what is returned only. -/
theorem strategyIsNotOnThePins : Obligations.StrategyIsNotOnThePins := by
  intro s k hs hl
  obtain ⟨T, hT⟩ := Option.isSome_iff_exists.1 (isSome_conv s.codeIn_lt k)
  exact ⟨_, _, exec_temp k hs hl hT, acquireReturnsTheReading s hs hl, rfl, rfl, rfl, rfl, rfl, rfl⟩

end Sys2Proof.Machine
end

section
/-! The pure functions over the reals, where nothing is rounded (R162, R164, R169): O43, O44, O45. -/

namespace Sys2Proof.Machine

/-! ### The exact inverse -/

theorem cvdDisc_realFloat (R : ℝ) :
    cvdDisc realFloat R = 0.0039083 ^ 2 * 100 ^ 2 - 4 * (-5.775e-7) * 100 * (100 - R) := by
  simp only [cvdDisc, cvdD1, cvdD2, realFloat, Numerics.lit, Numerics.real, Config.cvdA, Config.cvdB, Config.r0]
  norm_num

theorem tExact_realFloat (R : ℝ) : tExact realFloat R =
    if cvdDisc realFloat R < 0 then none
    else some ((-(0.0039083 * 100) + √(cvdDisc realFloat R)) / (2 * (-5.775e-7) * 100)) := by
  rw [tExact, cvdDisc_realFloat]
  simp only [cvdT1, cvdDen, realFloat, Numerics.lit, Numerics.real, Config.cvdA, Config.cvdB, Config.r0]
  norm_num

/-- Settles O43: the discriminant is negative exactly above the limit. -/
theorem domainLimitOverTheReals : Obligations.DomainLimitOverTheReals := by
  intro R
  have limit : cvdDisc realFloat R < 0 ↔ R > 100 + 0.0039083 ^ 2 * 100 / (4 * 5.775e-7) := by
    rw [cvdDisc_realFloat]
    constructor <;> intro h <;> norm_num at h ⊢ <;> linarith
  rw [tExact_realFloat, ← limit]
  simp

theorem tExact_realFloat_eq_some {R T : ℝ} (h : tExact realFloat R = some T) : 0 ≤ cvdDisc realFloat R ∧
    T = (-(0.0039083 * 100) + √(cvdDisc realFloat R)) / (2 * (-5.775e-7) * 100) := by
  rw [tExact_realFloat] at h
  split at h
  next => cases h
  next inside => exact ⟨not_lt.1 inside, (Option.some.inj h).symm⟩

theorem tExact_realFloat_root {R T : ℝ} (h : tExact realFloat R = some T) :
    100 * (1 + 0.0039083 * T - 5.775e-7 * T ^ 2) = R := by
  obtain ⟨inside, rfl⟩ := tExact_realFloat_eq_some h
  have square := Real.sq_sqrt inside
  have disc := cvdDisc_realFloat R
  generalize √(cvdDisc realFloat R) = x at *
  rw [disc] at square
  norm_num at square ⊢
  linarith

theorem tExact_realFloat_hundred : tExact realFloat 100 = some 0 := by
  have disc : cvdDisc realFloat 100 = (0.0039083 * 100) ^ 2 := by
    rw [cvdDisc_realFloat]
    norm_num
  rw [tExact_realFloat, disc, if_neg (sq_nonneg _).not_gt, Real.sqrt_sq (by norm_num), neg_add_cancel, zero_div]

/-- The discriminant decreases in `R`, its root with it, and the denominator is negative. -/
theorem tExact_realFloat_lt {R Q T U : ℝ} (hR : tExact realFloat R = some T) (hQ : tExact realFloat Q = some U)
    (h : R < Q) : T < U := by
  obtain ⟨-, rfl⟩ := tExact_realFloat_eq_some hR
  obtain ⟨inside, rfl⟩ := tExact_realFloat_eq_some hQ
  have disc_lt : cvdDisc realFloat Q < cvdDisc realFloat R := by
    rw [cvdDisc_realFloat, cvdDisc_realFloat]
    linarith
  have root_lt := Real.sqrt_lt_sqrt inside disc_lt
  exact (div_lt_div_right_of_neg (by norm_num)).2 (by linarith)

/-- Settles O44: a value is the root of the quadratic that the formula gives, and it grows with the resistance. -/
theorem exactInverseOverTheReals : Obligations.ExactInverseOverTheReals := by
  refine ⟨fun R T h => ?_, fun _ _ => tExact_realFloat_root, tExact_realFloat_hundred,
    fun _ _ _ _ => tExact_realFloat_lt⟩
  rw [← cvdDisc_realFloat]
  exact (tExact_realFloat_eq_some h).2

/-! ### Horner evaluation -/

theorem horner_realFloat_succ (n : Nat) (c : Fin (n + 2) → ℝ) (R : ℝ) :
    horner realFloat (n + 1) c R = R * horner realFloat n (fun k => c k.succ) R + c 0 := rfl

/-- Settles O45, by induction on the degree: the coefficients above the lowest are those of a polynomial of one degree
less, times `R`. -/
theorem hornerIsThePolynomial : Obligations.HornerIsThePolynomial := by
  intro n
  induction n with
  | zero =>
    intro c R
    simp [horner]
  | succ n ih =>
    intro c R
    rw [horner_realFloat_succ, ih, Finset.mul_sum, Fin.sum_univ_succ (n := n + 1), add_comm]
    simp [pow_succ', mul_left_comm]

end Sys2Proof.Machine
end

section
/-! Construction and end of life (R180 to R184): `INIT` before construction (O13), what the lifecycle refuses (O15,
O16), and `CLOSE` on a ready block, where it reports (O17) and where it waits (O18). -/

namespace Sys2Proof.Machine

/-! ### Construction and refusal -/

/-- Settles O13: the block that `INIT` constructs is the one described. -/
theorem initBuildsTheInstance : Obligations.InitBuildsTheInstance :=
  fun _ hl hq => exec_init_of_unbuilt hl hq

/-- An operation that the lifecycle refuses leaves the run's mark and nothing else. -/
theorem exec_of_refused {s : State} {i : Instr} {r : RefuseReason} (hq : s.caller.seq = none)
    (h : admission i s.life = some r) : exec i s = .next (refusedState s r) := by
  have refused : exec i s = .next (s.refuse r) := by simp only [exec_eq_operate, State.operate, hq, h]
  exact refused

/-- Settles O15: the lifecycle admits only `INIT` before construction, and nothing after `CLOSE`. -/
theorem operationsAreRefusedOutsideReady : Obligations.OperationsAreRefusedOutsideReady :=
  fun _ _ hq hi =>
    ⟨fun hl => exec_of_refused hq (admission_of_unbuilt hi hl),
      fun hl => exec_of_refused hq (admission_of_closed hi hl)⟩

theorem admission_init_of_built {life : Life} (h : life = .ready ∨ life = .closed) :
    admission .init life = some .alreadyBuilt := by
  obtain rfl | rfl := h <;> rfl

/-- Settles O16: once the block is built the lifecycle does not admit `INIT`. -/
theorem secondInitIsRefused : Obligations.SecondInitIsRefused :=
  fun _ hq hl => exec_of_refused hq (admission_init_of_built hl)

/-! ### `CLOSE` on a ready block -/

/-- The condition on which `CLOSE` reports (R182). -/
theorem State.quiet_iff (s : State) : s.quiet = true ↔ s.lock = .free ∧ ∀ c ∈ s.others, c.busy = false := by
  simp [State.quiet]

theorem Caller.busy_iff (c : Caller) : c.busy = true ↔ ∃ q, c.seq = some q ∧ q.op ≠ .close := by
  cases hq : c.seq with
  | none => simp [Caller.busy_of_none hq]
  | some q => simp [Caller.busy_of_some hq]

section

variable {s : State} (hl : s.life = .ready)
include hl

theorem perform_close_of_quiet (h : s.quiet = true) :
    s.perform .close = .done { s.finish (.counters s.good s.bad) with life := .closed } := by
  simp only [State.perform, State.closeStep, hl, h, if_true]

theorem perform_close_of_not_quiet (h : s.quiet = false) : s.perform .close = .wait := by
  simp [State.perform, State.closeStep, hl, h]

variable (hq : s.caller.seq = none)
include hq

/-- `CLOSE` is accepted, and is its one step. -/
theorem exec_close_of_ready : exec .close s = (s.accept .close).performAll [.close] :=
  (exec_eq_operate .close s).trans (operate_ready hl hq .close (by decide) [.close])

theorem exec_close_of_quiet (h : s.quiet = true) : exec .close s = .next { s with
    life := .closed
    caller := returned s.caller (.counters s.good s.bad) } :=
  (exec_close_of_ready hl hq).trans (performAll_of_done (perform_close_of_quiet (s := s.accept .close) hl h) [])

theorem exec_close_of_not_quiet (h : s.quiet = false) : exec .close s = .next (waitingState s .close) :=
  (exec_close_of_ready hl hq).trans (performAll_of_wait (perform_close_of_not_quiet (s := s.accept .close) hl h) [])

end

/-- Settles O17: a block with the lock free and no other caller busy is quiet, so `CLOSE` reports and closes. -/
theorem closeReportsTheCounters : Obligations.CloseReportsTheCounters :=
  fun s hl hq hlock hothers => exec_close_of_quiet hl hq (s.quiet_iff.2 ⟨hlock, hothers⟩)

/-- Settles O18: a held lock, or another caller's operation in progress, keeps the block from being quiet. -/
theorem closeWaits : Obligations.CloseWaits := by
  intro s hl hq h
  refine exec_close_of_not_quiet hl hq (Bool.eq_false_iff.2 fun quiet => ?_)
  obtain ⟨hlock, hothers⟩ := s.quiet_iff.1 quiet
  obtain hheld | ⟨c, hc, hbusy⟩ := h
  · exact hheld hlock
  · exact Bool.eq_false_iff.1 (hothers c hc) (c.busy_iff.2 hbusy)

end Sys2Proof.Machine
end

section
/-! What is private to a caller, and its name (R205): O58. -/

namespace Sys2Proof.Machine

/-- `t` has the callers of `s`, but for what is private to the one that `s` serves. -/
structure TouchesOnlyServed (s t : State) : Prop where
  others : t.others = s.others
  caller_id : t.caller.id = s.caller.id

theorem TouchesOnlyServed.refl (s : State) : TouchesOnlyServed s s := ⟨rfl, rfl⟩

theorem TouchesOnlyServed.trans {s t u : State} (h : TouchesOnlyServed s t) (k : TouchesOnlyServed t u) :
    TouchesOnlyServed s u :=
  ⟨k.others.trans h.others, k.caller_id.trans h.caller_id⟩

theorem touchesOnlyServed_of_advances {s t : State} (h : Relation.ReflTransGen Advances s t) :
    TouchesOnlyServed s t := by
  induction h with
  | refl => exact .refl s
  | tail _ hv ih =>
    obtain ⟨q, m, adv⟩ := hv
    exact ih.trans ⟨adv.others, adv.caller_id⟩

/-- Serving a caller touches no other. -/
theorem StepShape.touchesOnlyServed {u t : State} (h : StepShape u t) : TouchesOnlyServed u t := by
  cases h with
  | idle ht => exact ht ▸ .refl u
  | refused rest r ht => exact ht ▸ ⟨rfl, rfl⟩
  | constructed rest hl ht => exact ht ▸ ⟨rfl, rfl⟩
  | begun rest i hi hl hq hrun =>
    have accepted : TouchesOnlyServed u ((taken u rest).accept i) := ⟨rfl, rfl⟩
    exact accepted.trans (touchesOnlyServed_of_advances hrun)
  | advanced ha => exact touchesOnlyServed_of_advances (.single ha)

/-- Settles O58: choosing a caller only reorders the callers, and serving it touches no other. -/
theorem stepTouchesOneCaller : Obligations.StepTouchesOneCaller := by
  intro s t h
  obtain ⟨u, hserves, hshape⟩ := step_shape h
  obtain ⟨hothers, hid⟩ := hshape.touchesOnlyServed
  exact ⟨u.caller, t.caller, u.others, hserves.perm.symm, .of_eq (congrArg _ hothers), hid⟩

end Sys2Proof.Machine
end

section
/-! The cost of every operation in pin events (R234, O27), and reset as construction (R220, O14). -/

namespace Sys2Proof.Machine

/-! ### Costs -/

/-- A step that is no pin event costs nothing. -/
theorem countP_isPinEvent_append_silent {xs : List Micro} {m : Micro} (hm : m.isPinEvent = false) :
    (xs ++ [m]).countP Micro.isPinEvent = xs.countP Micro.isPinEvent := by
  simp [hm]

/-- One byte out: three pin events for each of its eight bits, whatever their values (R121). -/
theorem countP_isPinEvent_sendByte (v : Byte) : (sendByte v).countP Micro.isPinEvent = 24 := rfl

/-- One byte in: as many as out, since clearing the accumulator is no pin event (R122). -/
theorem countP_isPinEvent_recvByte : recvByte.countP Micro.isPinEvent = 24 := rfl

theorem countP_isPinEvent_recvBytes (n : Nat) : (recvBytes n).countP Micro.isPinEvent = 24 * n := by
  have group : (recvByte ++ [Micro.keep]).countP Micro.isPinEvent = 24 :=
    (countP_isPinEvent_append_silent rfl).trans countP_isPinEvent_recvByte
  rw [recvBytes, List.countP_flatten, List.map_replicate, group, List.sum_replicate_nat, Nat.mul_comm]

/-- A write frame: two bytes, and the two edges of chip-select (R82). -/
theorem countP_isPinEvent_writeFrameSteps (a v : Byte) : (writeFrameSteps a v).countP Micro.isPinEvent = 50 := by
  simp [writeFrameSteps, List.countP_cons, countP_isPinEvent_sendByte, Micro.isPinEvent]

/-- A read frame: one byte out, `n` bytes in, and the two edges of chip-select (R83). -/
theorem countP_isPinEvent_readFrameSteps (a : Byte) (n : Nat) :
    (readFrameSteps a n).countP Micro.isPinEvent = 26 + 24 * n := by
  simp [readFrameSteps, List.countP_cons, countP_isPinEvent_sendByte, countP_isPinEvent_recvBytes, Micro.isPinEvent]
  omega

/-- An acquisition: the frame of the trigger (50), the delay (1) and the frame of the eight registers (218). -/
theorem countP_isPinEvent_acquisition : acquisition.countP Micro.isPinEvent = 269 := by
  simp [acquisition, countP_isPinEvent_writeFrameSteps, countP_isPinEvent_readFrameSteps, Config.nregs,
    List.countP_cons, Micro.isPinEvent]

/-- Settles O27: an operation costs what its byte, its frame or its acquisition does, and its return nothing. -/
theorem pinEventCosts : Obligations.PinEventCosts := by
  intro i
  cases i with
  | init | close => rfl
  | sendbyte v => exact (countP_isPinEvent_append_silent rfl).trans (countP_isPinEvent_sendByte v)
  | recvbyte => exact (countP_isPinEvent_append_silent rfl).trans countP_isPinEvent_recvByte
  | writereg | writeFrame => exact (countP_isPinEvent_append_silent rfl).trans (countP_isPinEvent_writeFrameSteps _ _)
  | readregs | readFrame => exact (countP_isPinEvent_append_silent rfl).trans (countP_isPinEvent_readFrameSteps _ _)
  | acquire | tempExact | tempPoly3 | tempPoly4 | tempPoly5 =>
    exact (countP_isPinEvent_append_silent rfl).trans countP_isPinEvent_acquisition

/-! ### Reset -/

theorem constructed_unbuilt : State.unbuilt.constructed = State.reset := rfl

/-- Settles O14: the block that `INIT` constructs before construction is the block at reset. -/
theorem initOfUnbuiltIsReset : Obligations.InitOfUnbuiltIsReset :=
  (exec_init_of_unbuilt rfl rfl).trans (congrArg _ constructed_unbuilt)

end Sys2Proof.Machine
end
